-- ==== Sys2Proof/Word.lean ====
section
/-! DEFINITION. The fixed widths of the block's data: bytes, u16 and u32 (00_scope.md R14). Nothing else stands here. -/

namespace Sys2Proof

/-- One byte of an operation word, a wire packet or a peer address (`u8`, R14). -/
abbrev Byte := BitVec 8

/-- `u16` of R14: sequence numbers, channel values, payload fields, checksums. -/
abbrev U16 := BitVec 16

/-- `u32` of R14: timestamps in an operation word, the gap width, the link counters. -/
abbrev U32 := BitVec 32

end Sys2Proof
end

