-- ==== Sys2Proof/Config.lean ====
section
/-! DEFINITION. The implementation parameters (00_scope.md R6 to R12, 92_eei_decisions.md section 2): fixed when the
block is instantiated, written by no operation (10_state.md R37). Every claim of the package is for every `Config`. -/

namespace Sys2Proof

/-- `N` of R6: the number of channels of a frame. Normative 9 (D26; log 7). -/
abbrev numChannels : Nat := 9

/-- `WIDTH_MODE` of R9. -/
inductive WidthMode
  /-- A channel's value is the width of the Pulse interval alone. -/
  | pulseOnly
  /-- A channel's value is the Gap interval's width plus the Pulse interval's. -/
  | gapPlusPulse
  deriving DecidableEq, Repr

/-- `ROLE` of R12. -/
inductive Role
  | transmitter
  | receiver
  deriving DecidableEq, Repr

/-- The configuration record (R6 to R12, R37). `N` and `CRC_INIT` are not parameters of a run: `numChannels`, `crcInit`. -/
structure Config where
  /-- `MODULUS`, R7: 2 <= MODULUS <= 2^32. -/
  modulus : Nat
  /-- `SYNC_THRESHOLD`, R8, in ticks. -/
  syncThreshold : Nat
  /-- `WIDTH_MODE`, R9. -/
  widthMode : WidthMode
  /-- `MIN_GAP`, R10, in ticks. -/
  minGap : Nat
  /-- `MIN_PULSE`, R10, in ticks. -/
  minPulse : Nat
  /-- `CRC_POLY_REFL`, R11. -/
  crcPolyRefl : U16
  /-- `CRC_XOROUT`, R11. -/
  crcXorout : U16
  /-- `ROLE`, R12. -/
  role : Role
  deriving DecidableEq, Repr

/-- `CRC_INIT = 0xFFFF` (R11, from the source). -/
def crcInit : U16 := 0xFFFF#16

/-- The ranges that R7, R8 and R10 give the integer parameters. -/
abbrev Config.wf (c : Config) : Prop :=
  2 ≤ c.modulus ∧ c.modulus ≤ 4294967296 ∧ c.syncThreshold < 4294967296 ∧
    c.minGap < 4294967296 ∧ c.minPulse < 4294967296

/-- The configuration `State.reset` carries: the spec's defaults where it gives one (MODULUS D6, MIN_PULSE D11, the CRC
parameters D15). DESIGN CHOICE for the OPEN ones (SYNC_THRESHOLD 8000, WIDTH_MODE, MIN_GAP 100, ROLE), unsafe: log 2. No
statement rests on these four values. -/
def Config.atReset : Config where
  modulus := 4294967296
  syncThreshold := 8000
  widthMode := .pulseOnly
  minGap := 100
  minPulse := 0
  crcPolyRefl := 0x8408#16
  crcXorout := 0x0000#16
  role := .receiver

end Sys2Proof
end

