-- ==== Sys2Proof/Syntax.lean ====
section
/-! DEFINITION. The abstract syntax: peer addresses, frames, packets, opcodes, and `Instr`, one constructor per row of
spec/opcode_table.json (the 18 operations of 30_encoding.md R87 and the 3 wire packets of R78 to R80). -/

namespace Sys2Proof

/-- A peer address: six bytes "in the order the radio presents an address" (R30), never read as a number (R51). -/
abbrev Mac := Vector Byte 6

/-- BROADCAST, FF FF FF FF FF FF (43_pairing.md, R30). -/
def broadcast : Mac := #v[0xFF, 0xFF, 0xFF, 0xFF, 0xFF, 0xFF]

/-- The all-zero address that R88 requires of an absent binding. -/
def zeroMac : Mac := #v[0x00, 0x00, 0x00, 0x00, 0x00, 0x00]

/-- ChannelFrame: "ordered sequence of N (=9) unsigned 16-bit pulse-widths" (R28), `chan[0]` the first after the sync pulse. -/
abbrev ChannelFrame := Vector U16 numChannels

/-- The eight u16 of a Control payload, in R79's order. -/
structure ControlPayload where
  motors : Vector U16 3
  brakes : Vector U16 3
  servos : Vector U16 2
  deriving DecidableEq, Repr

/-- The four u16 of a Telemetry payload, in R80's order. -/
structure TelemetryPayload where
  batteryVoltage : U16
  packetCount : U16
  packetLoss : U16
  sequenceErrors : U16
  deriving DecidableEq, Repr

/-- WirePacket, the sum type DECODE produces (R156): the checksum and the reserved `role_flags` bits are not part of it. -/
inductive Packet
  | beacon (seq : U16) (tx rx bind : Bool)
  | control (seq : U16) (payload : ControlPayload)
  | telemetry (seq : U16) (payload : TelemetryPayload)
  deriving DecidableEq, Repr

/-- The three assigned packet types (R77). -/
inductive PacketType
  | beacon
  | control
  | telemetry
  deriving DecidableEq, Repr

/-- The assigned opcodes of R87, by name. Their numbers are in Decode.lean. -/
inductive Opcode
  | reset | tick | rollover | edge | take | now | elapsed
  | encBeacon | encControl | encTelemetry | decode
  | pairStart | pairTimeout | pairBeacon | pairCancel | pairAccept
  | observe | healthRead
  deriving DecidableEq, Repr

/-- What the block consumes: the operations of R87 and the wire packets of R78 to R80. -/
inductive Instr
  /-- RESET (R265). -/
  | reset
  /-- TICK (R106). -/
  | tick
  /-- ROLLOVER (R129). -/
  | rollover
  /-- EDGE with its timestamp (R121). -/
  | edge (t : U32)
  /-- TAKE (R130). -/
  | take
  /-- NOW (R107). -/
  | now
  /-- ELAPSED (R109). -/
  | elapsed (since : U32)
  /-- ENC_BEACON (R153). -/
  | encBeacon (seq : U16) (roleFlags : Byte)
  /-- ENC_CONTROL (R154). -/
  | encControl (seq : U16) (payload : ControlPayload)
  /-- ENC_TELEMETRY (R155). -/
  | encTelemetry (seq : U16) (payload : TelemetryPayload)
  /-- DECODE of a received buffer (R156). -/
  | decode (bytes : List Byte)
  /-- PAIR_START (R176). -/
  | pairStart (present : Bool) (mac : Mac)
  /-- PAIR_TIMEOUT (R177). -/
  | pairTimeout
  /-- PAIR_BEACON (R178). -/
  | pairBeacon (src : Mac) (roleFlags : Byte)
  /-- PAIR_CANCEL (R181). -/
  | pairCancel
  /-- PAIR_ACCEPT (R182). -/
  | pairAccept (src : Mac)
  /-- OBSERVE (R200). -/
  | observe (seq : U16)
  /-- HEALTH_READ (R203). -/
  | healthRead
  /-- A received BEACON wire packet (R78). -/
  | beacon (seq : U16) (roleFlags : Byte) (checksum : U16)
  /-- A received CONTROL wire packet (R79). -/
  | control (seq : U16) (payload : ControlPayload) (checksum : U16)
  /-- A received TELEMETRY wire packet (R80). -/
  | telemetry (seq : U16) (payload : TelemetryPayload) (checksum : U16)
  deriving DecidableEq, Repr

/-- One input at the block's boundary, as bytes: an operation word (R86) or a received wire packet (R75). The two have
overlapping first bytes (RESET and type 0), so the kind of input is part of it (log 5). -/
inductive Input
  | operation (word : List Byte)
  | packet (bytes : List Byte)
  deriving DecidableEq, Repr

/-- Why an operation word is refused: the cases of R88, by name. Which name is answered when several hold is a DESIGN CHOICE
(log 13). -/
inductive IllFormed
  /-- The word has no byte, so no opcode; R88 does not list it (DESIGN CHOICE, log 13). -/
  | emptyWord
  /-- "its opcode is unassigned". -/
  | unassignedOpcode
  /-- "its length is not the length of its format". -/
  | wrongLength
  /-- "EDGE or ELAPSED has an operand >= MODULUS". -/
  | operandNotBelowModulus
  /-- "ENC_BEACON has any of `role_flags` bits 6..2 set". -/
  | reservedRoleFlags
  /-- "PAIR_START has `present` not in {0, 1}". -/
  | presentNotABit
  /-- "`present = 0` with `mac` not all zero". -/
  | absentMacNotZero
  /-- "`present = 1` with `mac` the broadcast address". -/
  | persistedMacBroadcast
  /-- "DECODE has `len` different from the number of bytes that follow". -/
  | lenMismatch
  deriving DecidableEq, Repr

end Sys2Proof
end

