-- ==== Sys2Proof/Machine/Flags.lean ====
section
/-! DEFINITION. Every one-bit field and every condition the rules compute: the `role_flags` bits (30_encoding.md R82), the
decoder's comparisons (41_ppm_decoder.md R135), saturation (44_link_health.md R200). There are no condition codes (R36). -/

namespace Sys2Proof.Machine

/-- `role_flags[0]`, TX (R82). -/
def txBit (f : Byte) : Bool := f.getLsbD 0

/-- `role_flags[1]`, RX (R82). -/
def rxBit (f : Byte) : Bool := f.getLsbD 1

/-- `role_flags[7]`, BIND (R82). -/
def bindBit (f : Byte) : Bool := f.getLsbD 7

/-- `role_flags` bits 6..2 are all zero (R82, R88). -/
def reservedClear (f : Byte) : Bool := f &&& 0x7C#8 == 0#8

/-- The `role_flags` byte with the given three bits and bits 6..2 written 0 (R82). -/
def roleFlagsOf (tx rx bind : Bool) : Byte :=
  (if tx then 0x01#8 else 0#8) ||| (if rx then 0x02#8 else 0#8) ||| (if bind then 0x80#8 else 0#8)

/-- OWN of 43_pairing.md: the node's own role flag (R12). -/
def ownFlag : Role → Byte
  | .transmitter => 0x01#8
  | .receiver => 0x02#8

/-- The sync-pulse test, strict (R122, R135). -/
def isSync (c : Config) (width : Nat) : Bool := width > c.syncThreshold

/-- The plausibility test in state Gap (R124, R127, R135). -/
def gapTooShort (c : Config) (width : Nat) : Bool := width < c.minGap

/-- The plausibility test in state Pulse (R125, R127, R135). -/
def pulseTooShort (c : Config) (width : Nat) : Bool := width < c.minPulse

/-- A value that a u16 cannot hold (R128, R135). -/
def valueOverflows (v : Nat) : Bool := v > 65535

/-- The value of a channel, over the integers: the pulse alone, or gap plus pulse (R125). -/
def channelValue (c : Config) (gapWidth : U32) (width : Nat) : Nat :=
  match c.widthMode with
  | .pulseOnly => width
  | .gapPlusPulse => gapWidth.toNat + width

/-- `sat32` of R200, as the u32 it is stored in. -/
def sat32 (x : Nat) : U32 := BitVec.ofNat 32 (min x 4294967295)

/-- R200's test for "less than or equal to `last_seq`" on the circle of u16 values. -/
def outOfOrderDistance (d : U16) : Bool := d.toNat = 0 || d.toNat ≥ 32768

end Sys2Proof.Machine
end

