-- ==== Sys2Proof/Machine/Operands.lean ====
section
/-! DEFINITION. Operand forms and byte order: the primitives MemRead and MemWrite over a byte buffer (00_scope.md R15,
20_memory.md R51), field assembly (30_encoding.md R84), peer addresses and payloads at their byte offsets (R79, R80, R86). -/

namespace Sys2Proof.Machine

/-- `v[7:0]`. -/
def lowByte (v : U16) : Byte := v.setWidth 8

/-- `v[15:8]`. -/
def highByte (v : U16) : Byte := (v >>> 8).setWidth 8

/-- `le16(v) = [v[7:0], v[15:8]]` (R51, R154). -/
def le16 (v : U16) : List Byte := [lowByte v, highByte v]

/-- A u32 operand as its four little-endian bytes (R86). -/
def le32 (v : U32) : List Byte :=
  [v.setWidth 8, (v >>> 8).setWidth 8, (v >>> 16).setWidth 8, (v >>> 24).setWidth 8]

/-- `MemRead(o, 1) = b[o]` (R51). Every caller reads below the buffer's length; past it the model reads 0 (log 14). -/
def read8 (b : List Byte) (o : Nat) : Byte := b.getD o 0#8

/-- `MemRead(o, 2) = b[o] + 256 * b[o+1]` (R51, R84). -/
def read16 (b : List Byte) (o : Nat) : U16 :=
  BitVec.ofNat 16 ((read8 b o).toNat + 256 * (read8 b (o + 1)).toNat)

/-- Four bytes, the least significant first (R86). -/
def read32 (b : List Byte) (o : Nat) : U32 :=
  BitVec.ofNat 32 ((read8 b o).toNat + 256 * (read8 b (o + 1)).toNat
    + 65536 * (read8 b (o + 2)).toNat + 16777216 * (read8 b (o + 3)).toNat)

/-- `MemWrite(o, 1, v)` (R51). -/
def write8 (b : List Byte) (o : Nat) (v : Byte) : List Byte := b.set o v

/-- `MemWrite(o, 2, v)`: `b[o] <- v[7:0]`, `b[o+1] <- v[15:8]` (R51). -/
def write16 (b : List Byte) (o : Nat) (v : U16) : List Byte :=
  write8 (write8 b o (lowByte v)) (o + 1) (highByte v)

/-- A peer address in address byte order, from offset `o` (R86). -/
def macAt (b : List Byte) (o : Nat) : Mac :=
  #v[read8 b o, read8 b (o + 1), read8 b (o + 2), read8 b (o + 3), read8 b (o + 4), read8 b (o + 5)]

/-- The Control payload from offset 3, the same place in a wire packet (R79) and in a PC operation word (R86). -/
def controlPayloadAt (b : List Byte) : ControlPayload where
  motors := #v[read16 b 3, read16 b 5, read16 b 7]
  brakes := #v[read16 b 9, read16 b 11, read16 b 13]
  servos := #v[read16 b 15, read16 b 17]

/-- The Telemetry payload from offset 3, the same place in a wire packet (R80) and in a PT operation word (R86). -/
def telemetryPayloadAt (b : List Byte) : TelemetryPayload where
  batteryVoltage := read16 b 3
  packetCount := read16 b 5
  packetLoss := read16 b 7
  sequenceErrors := read16 b 9

/-- The sixteen bytes of a Control payload (R79). -/
def controlBytes (p : ControlPayload) : List Byte :=
  le16 p.motors[0] ++ le16 p.motors[1] ++ le16 p.motors[2]
    ++ le16 p.brakes[0] ++ le16 p.brakes[1] ++ le16 p.brakes[2]
    ++ le16 p.servos[0] ++ le16 p.servos[1]

/-- The eight bytes of a Telemetry payload (R80). -/
def telemetryBytes (p : TelemetryPayload) : List Byte :=
  le16 p.batteryVoltage ++ le16 p.packetCount ++ le16 p.packetLoss ++ le16 p.sequenceErrors

/-- The first `n` bytes of a number, the least significant first. -/
def bytesOfNat : Nat → Nat → List Byte
  | 0, _ => []
  | n + 1, w => BitVec.ofNat 8 w :: bytesOfNat n (w / 256)

end Sys2Proof.Machine
end

