-- ==== Sys2Proof/Machine/State.lean ====
section
/-! DEFINITION. The state of MLL-CORE, field for field as 10_state.md R20 lists it, with the configuration and the block's
boundary (inputs waiting, the report of the last operation) as plain data beside it; and its value after RESET (R40). -/

namespace Sys2Proof.Machine

/-- `ppm.state` (R22). -/
inductive PpmState
  | waiting
  | gap
  | pulse
  deriving DecidableEq, Repr

/-- `pair.state` (R31). -/
inductive PairState
  | idle
  | waiting
  | binding
  | bound
  | cancelled
  deriving DecidableEq, Repr

/-- The sub-causes of FrameAbort (R235). -/
inductive AbortCause
  | gapTooShort
  | pulseTooShort
  | valueOverflow
  | rollover
  deriving DecidableEq, Repr

/-- The sub-causes of Corrupt (R235). -/
inductive CorruptCause
  | tooShort
  | badChecksum
  | unknownType
  | badLength
  deriving DecidableEq, Repr

/-- How an operation ended (R16, R235). Refused is not among them: it is a refusal of the step. -/
inductive OpOutcome
  | done
  | frameAbort (cause : AbortCause)
  | syncDiscard
  | corrupt (cause : CorruptCause)
  | ignored
  | empty
  deriving DecidableEq, Repr

/-- `Result<Packet, Corrupt>` of DECODE (R156). -/
inductive DecodeResult
  | ok (p : Packet)
  | corrupt (cause : CorruptCause)
  deriving DecidableEq, Repr

/-- The result value of an operation (`return v`, R15). -/
inductive Value
  /-- The operation's rule returns nothing. -/
  | none
  /-- NOW, ELAPSED: a u32 (R107, R109). -/
  | u32 (v : U32)
  /-- TAKE: `Some(frame)` or `None` (R130). -/
  | frame (f : Option ChannelFrame)
  /-- ENC_BEACON, ENC_CONTROL, ENC_TELEMETRY: the packet's bytes (R153 to R155). -/
  | bytes (b : List Byte)
  /-- DECODE (R156). -/
  | decoded (r : DecodeResult)
  /-- PAIR_ACCEPT: one bit (R182). -/
  | bit (b : Bool)
  /-- HEALTH_READ: the triple (R203). -/
  | health (packetCount : U16) (dropped outOfOrder : U32)
  deriving DecidableEq, Repr

/-- The actions of R17. `send` carries the destination and the beacon's `role_flags` (R180); the acknowledgement's `seq` is the
host's to supply, and the content of `log(what)` is not stated: neither is part of the action (log 10). -/
inductive Action
  | addPeer (addr : Mac)
  | sendBeacon (dest : Mac) (roleFlags : Byte)
  | persist (addr : Mac)
  | indicateNoPartner
  | log
  deriving DecidableEq, Repr

/-- The report of one operation: its outcome, its result, its actions in the order emitted (R15 to R17; log 4). -/
structure Report where
  outcome : OpOutcome
  result : Value
  actions : List Action
  deriving DecidableEq, Repr

/-- The report of an operation that has so far labelled, returned and emitted nothing. -/
def Report.fresh : Report := ⟨.done, .none, []⟩

/-- U1's state (R21). -/
structure Clock where
  /-- `clk.count`. -/
  count : Nat
  deriving DecidableEq, Repr

/-- U2's state but for the slot (R22 to R26). -/
structure Ppm where
  /-- `ppm.state`. -/
  state : PpmState
  /-- `ppm.last_edge`. -/
  lastEdge : Nat
  /-- `ppm.channel_index`. -/
  channelIndex : Nat
  /-- `ppm.gap_width`. -/
  gapWidth : U32
  /-- `ppm.chan[0..N-1]`. -/
  chan : ChannelFrame
  deriving DecidableEq, Repr

/-- The frame slot (R27). -/
structure Slot where
  /-- `slot.frame[0..N-1]`. -/
  frame : ChannelFrame
  /-- `slot.full`. -/
  full : Bool
  deriving DecidableEq, Repr

/-- PeerBinding (R30). -/
structure Peer where
  /-- `peer.mac[0..5]`. -/
  mac : Mac
  /-- `peer.bound`. -/
  bound : Bool
  deriving DecidableEq, Repr

/-- The pairing state machine (R31, R32). -/
structure Pairing where
  /-- `pair.state`. -/
  state : PairState
  /-- `pair.timer_armed`. -/
  timerArmed : Bool
  deriving DecidableEq, Repr

/-- LinkStats (R33). -/
structure Health where
  /-- `health.first_seq`; `none` is the spec's own None, "no sequence number has been observed yet". -/
  firstSeq : Option U16
  /-- `health.last_seq`. -/
  lastSeq : U16
  /-- `health.dropped`. -/
  dropped : U32
  /-- `health.out_of_order`. -/
  outOfOrder : U32
  deriving DecidableEq, Repr

/-- The state: R20's tuple (`clk` to `health`), the configuration that is constant over a run (R37; log 1), and the block's
boundary as plain data: the inputs the host has issued and the block has not consumed (R56; log 3), and the report of the
operation consumed last (log 4). -/
structure State where
  cfg : Config
  clk : Clock
  ppm : Ppm
  slot : Slot
  peer : Peer
  pair : Pairing
  health : Health
  inbox : List Input
  out : Report
  deriving DecidableEq, Repr

/-- Why the machine would stop with a fault. The spec has no outcome that stops the block (R235, R247: every named outcome is a
next state), so there is no constructor, and no step ends in a fault (log 9; nothing raises one, so it is neither safe nor
unsafe). -/
inductive Fault
  deriving DecidableEq, Repr

/-- Why a step gives an input no meaning. -/
inductive Refusal
  /-- Raised by an arm of `exec` that has no meaning yet; none is left. Safe. -/
  | notModelled (mnemonic : String)
  /-- Raised by the decoder and by the meanings of EDGE, ELAPSED, ENC_BEACON and PAIR_START on an ill-formed operation word:
  "the block has no defined behaviour and a model must give it no meaning rather than guess" (R16, R88). Safe: it stops. -/
  | illFormed (why : IllFormed)
  deriving DecidableEq, Repr

/-- The state after RESET and at instantiation with a given configuration: R40's table, row by row. -/
def State.resetWith (c : Config) : State where
  cfg := c
  clk := ⟨0⟩
  ppm := ⟨.waiting, 0, 0, 0#32, Vector.replicate numChannels 0#16⟩
  slot := ⟨Vector.replicate numChannels 0#16, false⟩
  peer := ⟨broadcast, false⟩
  pair := ⟨.idle, false⟩
  health := ⟨none, 0#16, 0#32, 0#32⟩
  inbox := []
  out := Report.fresh

/-- The machine right after reset, with the configuration of `Config.atReset` (log 2) and no input waiting (log 3). -/
def State.reset : State := State.resetWith Config.atReset

end Sys2Proof.Machine
end

