-- ==== Sys2Proof/Machine/Ops.lean ====
section
/-! DEFINITION. The named operations over the state that the meanings share: one writer per unit (10_state.md R39), the report of
an operation (R15 to R17), the EdgeClock's width function (R108), the checksum (R151, R152). -/

namespace Sys2Proof.Machine

/-- The three outcomes of a meaning. -/
abbrev Result := Host.Outcome State Fault Refusal

/-- Writes U1's state. -/
def State.setClk (c : Clock) (s : State) : State := { s with clk := c }

/-- Writes U2's decoder state. -/
def State.setPpm (p : Ppm) (s : State) : State := { s with ppm := p }

/-- Writes the frame slot, whole (R53). -/
def State.setSlot (x : Slot) (s : State) : State := { s with slot := x }

/-- Writes the peer binding. -/
def State.setPeer (p : Peer) (s : State) : State := { s with peer := p }

/-- Writes the pairing state machine. -/
def State.setPair (p : Pairing) (s : State) : State := { s with pair := p }

/-- Writes the link statistics. -/
def State.setHealth (h : Health) (s : State) : State := { s with health := h }

/-- Writes the report. -/
def State.setOut (r : Report) (s : State) : State := { s with out := r }

/-- An operation begins: nothing labelled, returned or emitted yet. -/
def State.beginOp (s : State) : State := s.setOut Report.fresh

/-- `outcome <Name>(info)`: labels the operation and cuts nothing short (R15, C8). This is all that "entry" to a named outcome
is: "saves nothing and transfers control nowhere" (R247); there is no return operation (R248). -/
def State.label (o : OpOutcome) (s : State) : State := s.setOut { s.out with outcome := o }

/-- `return v` (R15). -/
def State.ret (v : Value) (s : State) : State := s.setOut { s.out with result := v }

/-- `emit name(args)`: actions stand in the order written (R17). -/
def State.emit (a : Action) (s : State) : State := s.setOut { s.out with actions := s.out.actions ++ [a] }

/-- The pairing default rule: `log(what)`, outcome Ignored, no other change (R187). -/
def ignore (s : State) : State := (s.emit .log).label .ignored

/-- An ill-formed operand: no meaning (R16, R88). -/
def refuse (why : IllFormed) : Result := .refused (.illFormed why)

/-- `elapsed(now, since)` over the integers (R108): the one wrap-around formula (R111). -/
def elapsed (modulus now since : Nat) : Nat :=
  if now ≥ since then now - since else now + (modulus - since)

/-- "A frame is in progress" (R22). -/
def PpmState.inFrame : PpmState → Bool
  | .waiting => false
  | .gap => true
  | .pulse => true

/-- One of the eight bit steps of R151. -/
def crcBit (poly c : U16) : U16 := if c.getLsbD 0 then (c >>> 1) ^^^ poly else c >>> 1

/-- `n` bit steps. -/
def crcBits (poly : U16) : Nat → U16 → U16
  | 0, c => c
  | n + 1, c => crcBits poly n (crcBit poly c)

/-- One byte enters the checksum register (R151). -/
def crcByte (poly c : U16) (d : Byte) : U16 := crcBits poly 8 (c ^^^ d.setWidth 16)

/-- `crc16` (R151). -/
def crc16 (c : Config) (d : List Byte) : U16 := d.foldl (crcByte c.crcPolyRefl) crcInit ^^^ c.crcXorout

/-- The packet with its checksum field, the last two bytes, taken as zero (R152). -/
def zeroChecksum (b : List Byte) : List Byte := write16 b (b.length - 2) 0#16

/-- The checksum of a packet: over the whole packet with the checksum field as zero (R152). -/
def checksumOf (c : Config) (b : List Byte) : U16 := crc16 c (zeroChecksum b)

/-- The packet with its checksum stored in its last two bytes, little-endian (R152). -/
def withChecksum (c : Config) (b : List Byte) : List Byte := write16 b (b.length - 2) (checksumOf c b)

end Sys2Proof.Machine
end

