-- ==== Sys2Proof/Machine/PpmDecoder.lean ====
section
/-! DEFINITION. Unit U2, the PPM decoder: EDGE, ROLLOVER, TAKE (41_ppm_decoder.md R120 to R135). -/

namespace Sys2Proof.Machine

/-- `ppm_sync()` (R122): nothing but `channel_index` and `state` is written. -/
def ppmSync (s : State) : State :=
  let s := if s.ppm.state.inFrame then s.label .syncDiscard else s
  s.setPpm { s.ppm with channelIndex := 0, state := .gap }

/-- `ppm_abort(cause)` (R127). -/
def ppmAbort (cause : AbortCause) (s : State) : State :=
  (s.setPpm { s.ppm with state := .waiting }).label (.frameAbort cause)

/-- `ppm_publish()` (R126): the slot takes all of `chan` and becomes full in one action (R53). -/
def ppmPublish (s : State) : State :=
  (s.setSlot ⟨s.ppm.chan, true⟩).setPpm { s.ppm with state := .waiting }

/-- `ppm_gap(width)` (R124); `gap_width` is written only in mode GAP_PLUS_PULSE (R25). -/
def ppmGap (width : Nat) (s : State) : State :=
  if gapTooShort s.cfg width then ppmAbort .gapTooShort s
  else
    let s := match s.cfg.widthMode with
      | .pulseOnly => s
      | .gapPlusPulse => s.setPpm { s.ppm with gapWidth := BitVec.ofNat 32 width }
    s.setPpm { s.ppm with state := .pulse }

/-- `ppm_pulse(width)` (R125), the tests in R246's order. -/
def ppmPulse (width : Nat) (s : State) : State :=
  let v := channelValue s.cfg s.ppm.gapWidth width
  if pulseTooShort s.cfg width then ppmAbort .pulseTooShort s
  else if valueOverflows v then ppmAbort .valueOverflow s
  else
    let s := s.setPpm { s.ppm with
      chan := s.ppm.chan.setIfInBounds s.ppm.channelIndex (BitVec.ofNat 16 v)
      channelIndex := s.ppm.channelIndex + 1 }
    if s.ppm.channelIndex < numChannels then s.setPpm { s.ppm with state := .gap }
    else ppmPublish s

/-- `ppm_rollover()` (R129). -/
def ppmRollover (s : State) : State :=
  let s := if s.ppm.state.inFrame then s.label (.frameAbort .rollover) else s
  s.setPpm { s.ppm with state := .waiting }

/-- The body of EDGE (R121): `last_edge` is updated in every state, then the sync test, then the state's rule (R123: Waiting does
nothing more). -/
def ppmEdge (t : Nat) (s : State) : State :=
  let width := elapsed s.cfg.modulus t s.ppm.lastEdge
  let s := s.setPpm { s.ppm with lastEdge := t }
  if isSync s.cfg width then ppmSync s
  else match s.ppm.state with
    | .waiting => s
    | .gap => ppmGap width s
    | .pulse => ppmPulse width s

/-- EDGE (R121); `t >= MODULUS` is refused (R88). The timestamp is a free operand, reading (a) of R132 (log 11). -/
def execEdge (t : U32) (s : State) : Result :=
  if t.toNat < s.cfg.modulus then .next (ppmEdge t.toNat s.beginOp)
  else refuse .operandNotBelowModulus

/-- ROLLOVER (R129). -/
def execRollover (s : State) : Result := .next (ppmRollover s.beginOp)

/-- TAKE (R130): the frame is delivered at most once; `slot.frame` is not cleared. -/
def execTake (s : State) : Result :=
  if s.slot.full then
    .next ((s.beginOp.setSlot { s.slot with full := false }).ret (.frame (some s.slot.frame)))
  else .next ((s.beginOp.label .empty).ret (.frame none))

end Sys2Proof.Machine
end

