-- ==== Sys2Proof/Machine/EdgeClock.lean ====
section
/-! DEFINITION. Unit U1, EdgeClock: TICK, NOW, ELAPSED (40_edgeclock.md R105 to R112). -/

namespace Sys2Proof.Machine

/-- TICK (R106); the rollover effect of a wrap is part of the same operation (R110). -/
def execTick (s : State) : Result :=
  let c := (s.clk.count + 1) % s.cfg.modulus
  let s := s.beginOp.setClk ⟨c⟩
  .next (if c = 0 then ppmRollover s else s)

/-- NOW (R107). -/
def execNow (s : State) : Result :=
  .next (s.beginOp.ret (.u32 (BitVec.ofNat 32 s.clk.count)))

/-- ELAPSED (R109); `since >= MODULUS` is refused (R88). -/
def execElapsed (since : U32) (s : State) : Result :=
  if since.toNat < s.cfg.modulus then
    .next (s.beginOp.ret (.u32 (BitVec.ofNat 32 (elapsed s.cfg.modulus s.clk.count since.toNat))))
  else refuse .operandNotBelowModulus

end Sys2Proof.Machine
end

