-- ==== Sys2Proof/WellFormed.lean ====
section
/-! DEFINITION. Which instructions are well formed: the operand constraints of 30_encoding.md R88 that do not need the
configuration (`Instr.wf`), and with MODULUS (`Instr.admissible`). -/

namespace Sys2Proof

/-- The constraint of R88 that the instruction's operands break, if any. -/
def Instr.defect? : Instr → Option IllFormed
  | .reset => none
  | .tick => none
  | .rollover => none
  | .edge _ => none
  | .take => none
  | .now => none
  | .elapsed _ => none
  | .encBeacon _ f => if Machine.reservedClear f then none else some .reservedRoleFlags
  | .encControl _ _ => none
  | .encTelemetry _ _ => none
  | .decode b => if b.length ≤ 255 then none else some .lenMismatch
  | .pairStart true mac => if mac = broadcast then some .persistedMacBroadcast else none
  | .pairStart false mac => if mac = zeroMac then none else some .absentMacNotZero
  | .pairTimeout => none
  | .pairBeacon _ _ => none
  | .pairCancel => none
  | .pairAccept _ => none
  | .observe _ => none
  | .healthRead => none
  | .beacon _ _ _ => none
  | .control _ _ _ => none
  | .telemetry _ _ _ => none

/-- Well formed as an encoding: some operation word or wire packet stands for exactly this instruction (R86, R88). -/
def Instr.wf (i : Instr) : Bool := i.defect?.isNone

/-- Well formed and, for EDGE and ELAPSED, with its operand below MODULUS (R88): the instructions the block gives a meaning. -/
def Instr.admissible (c : Config) : Instr → Bool
  | .edge t => t.toNat < c.modulus
  | .elapsed since => since.toNat < c.modulus
  | .encBeacon seq f => (Instr.encBeacon seq f).wf
  | .pairStart present mac => (Instr.pairStart present mac).wf
  | .decode _ => true
  | .reset | .tick | .rollover | .take | .now | .encControl _ _ | .encTelemetry _ _ => true
  | .pairTimeout | .pairBeacon _ _ | .pairCancel | .pairAccept _ | .observe _ | .healthRead => true
  | .beacon _ _ _ | .control _ _ _ | .telemetry _ _ _ => true

end Sys2Proof
end

