-- ==== Sys2Proof/Decode.lean ====
section
/-! DEFINITION. The decoder, total on any bytes and rejecting by name, and the encoder (30_encoding.md R75 to R88). -/

namespace Sys2Proof

open Machine

/-- The opcode numbers (R87). -/
def Opcode.code : Opcode → Byte
  | .reset => 0x00
  | .tick => 0x01
  | .rollover => 0x02
  | .edge => 0x03
  | .take => 0x04
  | .now => 0x05
  | .elapsed => 0x06
  | .encBeacon => 0x20
  | .encControl => 0x21
  | .encTelemetry => 0x22
  | .decode => 0x28
  | .pairStart => 0x30
  | .pairTimeout => 0x31
  | .pairBeacon => 0x32
  | .pairCancel => 0x33
  | .pairAccept => 0x34
  | .observe => 0x40
  | .healthRead => 0x41

/-- The rows of R87, in the table's order. -/
def opcodeRows : List Opcode :=
  [.reset, .tick, .rollover, .edge, .take, .now, .elapsed, .encBeacon, .encControl, .encTelemetry, .decode,
    .pairStart, .pairTimeout, .pairBeacon, .pairCancel, .pairAccept, .observe, .healthRead]

/-- The row of R87 with this opcode number; `none` where the opcode is unassigned. -/
def opcode? (b : Byte) : Option Opcode := opcodeRows.find? fun o => o.code == b

/-- The length of the opcode's format (R86); for format D, whose length is 2 + len, the two bytes before the buffer. -/
def Opcode.length : Opcode → Nat
  | .reset | .tick | .rollover | .take | .now | .pairTimeout | .pairCancel | .healthRead => 1
  | .edge | .elapsed => 5
  | .encBeacon => 4
  | .encControl => 19
  | .encTelemetry => 11
  | .decode => 2
  | .pairStart => 8
  | .pairBeacon => 8
  | .pairAccept => 7
  | .observe => 3

/-- The packet type codes (R77). -/
def PacketType.code : PacketType → Byte
  | .beacon => 0x00
  | .control => 0x01
  | .telemetry => 0x02

/-- The packet type with this code; `none` for codes 3 to 255 (R77, R83). -/
def packetType? (b : Byte) : Option PacketType :=
  [PacketType.beacon, .control, .telemetry].find? fun t => t.code == b

/-- L(type) of R81. -/
def PacketType.length : PacketType → Nat
  | .beacon => 6
  | .control => 21
  | .telemetry => 13

/-- An instruction of a fixed-length format: its operands read at the format's byte offsets, or refused for its length (R88). -/
def fixedLength (n : Nat) (w : List Byte) (i : Instr) : Except IllFormed Instr :=
  if w.length = n then .ok i else .error .wrongLength

/-- The operands of an operation word `w` whose byte 0 is the opcode (R86). -/
def parseOperands (op : Opcode) (w : List Byte) : Except IllFormed Instr :=
  match op with
  | .reset => fixedLength 1 w .reset
  | .tick => fixedLength 1 w .tick
  | .rollover => fixedLength 1 w .rollover
  | .edge => fixedLength 5 w (.edge (read32 w 1))
  | .take => fixedLength 1 w .take
  | .now => fixedLength 1 w .now
  | .elapsed => fixedLength 5 w (.elapsed (read32 w 1))
  | .encBeacon => fixedLength 4 w (.encBeacon (read16 w 1) (read8 w 3))
  | .encControl => fixedLength 19 w (.encControl (read16 w 1) (controlPayloadAt w))
  | .encTelemetry => fixedLength 11 w (.encTelemetry (read16 w 1) (telemetryPayloadAt w))
  | .decode =>
    if w.length < 2 then .error .wrongLength
    else if (read8 w 1).toNat = w.length - 2 then .ok (.decode (w.drop 2))
    else .error .lenMismatch
  | .pairStart =>
    if w.length ≠ 8 then .error .wrongLength
    else if read8 w 1 = 0x00 then .ok (.pairStart false (macAt w 2))
    else if read8 w 1 = 0x01 then .ok (.pairStart true (macAt w 2))
    else .error .presentNotABit
  | .pairTimeout => fixedLength 1 w .pairTimeout
  | .pairBeacon => fixedLength 8 w (.pairBeacon (macAt w 1) (read8 w 7))
  | .pairCancel => fixedLength 1 w .pairCancel
  | .pairAccept => fixedLength 7 w (.pairAccept (macAt w 1))
  | .observe => fixedLength 3 w (.observe (read16 w 1))
  | .healthRead => fixedLength 1 w .healthRead

/-- An instruction whose operands meet R88's constraints, or the constraint they break. -/
def checked (i : Instr) : Except IllFormed Instr :=
  match i.defect? with
  | none => .ok i
  | some r => .error r

/-- The operation that an operation word stands for (R86 to R88). MODULUS is not known here: the meanings of EDGE and ELAPSED
refuse an operand that is not below it. -/
def decodeOperation (w : List Byte) : Except IllFormed Instr :=
  match w with
  | [] => .error .emptyWord
  | b :: _ =>
    match opcode? b with
    | none => .error .unassignedOpcode
    | some op => (parseOperands op w).bind checked

/-- A received buffer: the wire packet of its type when its length is L(type) (R75 to R81), otherwise the bytes as they are for
DECODE, which gives every buffer a result (R156, R158; log 5). -/
def decodePacket (b : List Byte) : Instr :=
  match packetType? (read8 b 0) with
  | some .beacon => if b.length = 6 then .beacon (read16 b 1) (read8 b 3) (read16 b 4) else .decode b
  | some .control => if b.length = 21 then .control (read16 b 1) (controlPayloadAt b) (read16 b 19) else .decode b
  | some .telemetry => if b.length = 13 then .telemetry (read16 b 1) (telemetryPayloadAt b) (read16 b 11) else .decode b
  | none => .decode b

/-- The instruction an input stands for. -/
def decodeInput : Input → Except IllFormed Instr
  | .operation w => decodeOperation w
  | .packet b => .ok (decodePacket b)

/-- The bytes of a BEACON wire packet (R78). -/
def beaconPacket (seq : U16) (roleFlags : Byte) (checksum : U16) : List Byte :=
  PacketType.beacon.code :: (le16 seq ++ [roleFlags] ++ le16 checksum)

/-- The bytes of a CONTROL wire packet (R79). -/
def controlPacket (seq : U16) (p : ControlPayload) (checksum : U16) : List Byte :=
  PacketType.control.code :: (le16 seq ++ controlBytes p ++ le16 checksum)

/-- The bytes of a TELEMETRY wire packet (R80). -/
def telemetryPacket (seq : U16) (p : TelemetryPayload) (checksum : U16) : List Byte :=
  PacketType.telemetry.code :: (le16 seq ++ telemetryBytes p ++ le16 checksum)

/-- The input that stands for an instruction: its operation word (R86, R87) or its wire packet (R78 to R80). -/
def encode : Instr → Input
  | .reset => .operation [Opcode.reset.code]
  | .tick => .operation [Opcode.tick.code]
  | .rollover => .operation [Opcode.rollover.code]
  | .edge t => .operation (Opcode.edge.code :: le32 t)
  | .take => .operation [Opcode.take.code]
  | .now => .operation [Opcode.now.code]
  | .elapsed since => .operation (Opcode.elapsed.code :: le32 since)
  | .encBeacon seq f => .operation (Opcode.encBeacon.code :: (le16 seq ++ [f]))
  | .encControl seq p => .operation (Opcode.encControl.code :: (le16 seq ++ controlBytes p))
  | .encTelemetry seq p => .operation (Opcode.encTelemetry.code :: (le16 seq ++ telemetryBytes p))
  | .decode b => .operation (Opcode.decode.code :: BitVec.ofNat 8 b.length :: b)
  | .pairStart present mac =>
    .operation (Opcode.pairStart.code :: (if present then 0x01#8 else 0x00#8) :: mac.toList)
  | .pairTimeout => .operation [Opcode.pairTimeout.code]
  | .pairBeacon src f => .operation (Opcode.pairBeacon.code :: (src.toList ++ [f]))
  | .pairCancel => .operation [Opcode.pairCancel.code]
  | .pairAccept src => .operation (Opcode.pairAccept.code :: src.toList)
  | .observe seq => .operation (Opcode.observe.code :: le16 seq)
  | .healthRead => .operation [Opcode.healthRead.code]
  | .beacon seq f c => .packet (beaconPacket seq f c)
  | .control seq p c => .packet (controlPacket seq p c)
  | .telemetry seq p c => .packet (telemetryPacket seq p c)

/-- The bytes of an operation word whose first `nbits` bits are those of `w` and whose later bits are 0, as long as its format
asks (for DECODE, as long as its `len` byte asks). -/
def tableOperation (nbits w : Nat) : List Byte :=
  let bits := w % 2 ^ nbits
  let given := (nbits + 7) / 8
  let len := match opcode? (BitVec.ofNat 8 bits) with
    | some .decode => 2 + bits / 256 % 256
    | some op => op.length
    | none => 1
  bytesOfNat (max given len) bits

/-- The input that a row of the opcode table stands for: a wire packet where `nbits` is exactly the length of the packet whose
type the first byte names, otherwise an operation word (the two share first bytes; log 6). -/
def tableInput (nbits w : Nat) : Input :=
  match packetType? (BitVec.ofNat 8 w) with
  | some t => if nbits = 8 * t.length then .packet (bytesOfNat t.length w) else .operation (tableOperation nbits w)
  | none => .operation (tableOperation nbits w)

/-- What the decoder reads from an instruction whose bits are `w`, numbered as spec/opcode_table.json numbers them. -/
def decodeTableWord (nbits w : Nat) : Option Instr :=
  match decodeInput (tableInput nbits w) with
  | .ok i => some i
  | .error _ => none

end Sys2Proof
end

