-- ==== Sys2Proof/Machine/FrameCodec.lean ====
section
/-! DEFINITION. Unit U3, the packet framer: ENC_BEACON, ENC_CONTROL, ENC_TELEMETRY, DECODE, and the wire packets put through
DECODE (42_frame_codec.md R150 to R161). The unit has no state (R29): only the report is written. -/

namespace Sys2Proof.Machine

/-- The result of ENC_BEACON (R153). -/
def beaconBytes (c : Config) (seq : U16) (roleFlags : Byte) : List Byte :=
  withChecksum c (beaconPacket seq roleFlags 0#16)

/-- The result of ENC_CONTROL (R154). -/
def controlFrame (c : Config) (seq : U16) (p : ControlPayload) : List Byte :=
  withChecksum c (controlPacket seq p 0#16)

/-- The result of ENC_TELEMETRY (R155). -/
def telemetryFrame (c : Config) (seq : U16) (p : TelemetryPayload) : List Byte :=
  withChecksum c (telemetryPacket seq p 0#16)

/-- `encode(packet) -> bytes` of the source, for a `Packet` value: a Beacon is its seq and the three bits (R159). -/
def encodePacket (c : Config) : Packet → List Byte
  | .beacon seq tx rx bind => beaconBytes c seq (roleFlagsOf tx rx bind)
  | .control seq p => controlFrame c seq p
  | .telemetry seq p => telemetryFrame c seq p

/-- The part of DECODE after the checksum test (R156): by type, with L(type) required (R158). -/
def packetOf (b : List Byte) : DecodeResult :=
  match packetType? (read8 b 0) with
  | some .beacon =>
    if b.length ≠ 6 then .corrupt .badLength
    else .ok (.beacon (read16 b 1) (txBit (read8 b 3)) (rxBit (read8 b 3)) (bindBit (read8 b 3)))
  | some .control =>
    if b.length ≠ 21 then .corrupt .badLength else .ok (.control (read16 b 1) (controlPayloadAt b))
  | some .telemetry =>
    if b.length ≠ 13 then .corrupt .badLength else .ok (.telemetry (read16 b 1) (telemetryPayloadAt b))
  | none => .corrupt .unknownType

/-- `decode(bytes) -> Result<Packet, Corrupt>` (R156), for a buffer of any length (I23). -/
def decodeBytes (c : Config) (b : List Byte) : DecodeResult :=
  if b.length < 5 then .corrupt .tooShort
  else if checksumOf c b ≠ read16 b (b.length - 2) then .corrupt .badChecksum
  else packetOf b

/-- Ends an operation of the framer with DECODE's result: a Corrupt result also labels the operation (R15, R156). -/
def reportDecode (r : DecodeResult) (s : State) : State :=
  match r with
  | .ok _ => s.ret (.decoded r)
  | .corrupt cause => (s.label (.corrupt cause)).ret (.decoded r)

/-- The framer applied to a received buffer. -/
def receive (b : List Byte) (s : State) : State := reportDecode (decodeBytes s.cfg b) s.beginOp

/-- ENC_BEACON (R153); reserved `role_flags` bits are refused (R82, R88). -/
def execEncBeacon (seq : U16) (roleFlags : Byte) (s : State) : Result :=
  if reservedClear roleFlags then .next (s.beginOp.ret (.bytes (beaconBytes s.cfg seq roleFlags)))
  else refuse .reservedRoleFlags

/-- ENC_CONTROL (R154): every u16 value is legal. -/
def execEncControl (seq : U16) (p : ControlPayload) (s : State) : Result :=
  .next (s.beginOp.ret (.bytes (controlFrame s.cfg seq p)))

/-- ENC_TELEMETRY (R155). -/
def execEncTelemetry (seq : U16) (p : TelemetryPayload) (s : State) : Result :=
  .next (s.beginOp.ret (.bytes (telemetryFrame s.cfg seq p)))

/-- DECODE (R156). -/
def execDecode (b : List Byte) (s : State) : Result := .next (receive b s)

/-- A received BEACON packet put through the framer (R78, R156; log 5). -/
def execBeacon (seq : U16) (roleFlags : Byte) (checksum : U16) (s : State) : Result :=
  .next (receive (beaconPacket seq roleFlags checksum) s)

/-- A received CONTROL packet put through the framer (R79, R156; log 5). -/
def execControl (seq : U16) (p : ControlPayload) (checksum : U16) (s : State) : Result :=
  .next (receive (controlPacket seq p checksum) s)

/-- A received TELEMETRY packet put through the framer (R80, R156; log 5). -/
def execTelemetry (seq : U16) (p : TelemetryPayload) (checksum : U16) (s : State) : Result :=
  .next (receive (telemetryPacket seq p checksum) s)

end Sys2Proof.Machine
end

