-- ==== Sys2Proof/Machine/LinkHealth.lean ====
section
/-! DEFINITION. Unit U5, the link-health monitor: OBSERVE, HEALTH_READ (44_link_health.md R200 to R204). -/

namespace Sys2Proof.Machine

/-- OBSERVE's effect on the link statistics (R200). -/
def observeSeq (seq : U16) (h : Health) : Health :=
  match h.firstSeq with
  | none => { h with firstSeq := some seq, lastSeq := seq }
  | some _ =>
    let d := seq - h.lastSeq
    if outOfOrderDistance d then { h with outOfOrder := sat32 (h.outOfOrder.toNat + 1) }
    else if d.toNat ≥ 2 then { h with dropped := sat32 (h.dropped.toNat + (d.toNat - 1)), lastSeq := seq }
    else { h with lastSeq := seq }

/-- HEALTH_READ's `packet_count` (R203). -/
def packetCount (h : Health) : U16 :=
  match h.firstSeq with
  | some f => h.lastSeq - f
  | none => 0#16

/-- OBSERVE (R200). -/
def execObserve (seq : U16) (s : State) : Result :=
  .next (s.beginOp.setHealth (observeSeq seq s.health))

/-- HEALTH_READ (R203). -/
def execHealthRead (s : State) : Result :=
  .next (s.beginOp.ret (.health (packetCount s.health) s.health.dropped s.health.outOfOrder))

end Sys2Proof.Machine
end

