-- ==== Sys2Proof/Machine/PairingUnit.lean ====
section
/-! DEFINITION. Unit U4, the pairing state machine: PAIR_START, PAIR_TIMEOUT, PAIR_BEACON, PAIR_CANCEL, PAIR_ACCEPT
(43_pairing.md R175 to R187). -/

namespace Sys2Proof.Machine

/-- PAIR_START's transition from Idle, in both branches (R176): the peer is installed and added, the timer armed. -/
def installPeer (p : Peer) (s : State) : State :=
  ((s.setPeer p).emit (.addPeer p.mac)).setPair ⟨.waiting, true⟩

/-- PAIR_START (R176); operands that R88 excludes are refused. -/
def execPairStart (present : Bool) (mac : Mac) (s : State) : Result :=
  if present && mac == broadcast then refuse .persistedMacBroadcast
  else if !present && mac != zeroMac then refuse .absentMacNotZero
  else if s.pair.state ≠ .idle then .next (ignore s.beginOp)
  else if present then .next (installPeer ⟨mac, true⟩ s.beginOp)
  else .next (installPeer ⟨broadcast, false⟩ s.beginOp)

/-- PAIR_TIMEOUT (R177): the bind-wait timer has elapsed. -/
def execPairTimeout (s : State) : Result :=
  if s.pair.state = .waiting ∧ s.pair.timerArmed = true then
    .next ((s.beginOp.emit .indicateNoPartner).setPair ⟨.binding, false⟩)
  else .next (ignore s.beginOp)

/-- `waiting_fast_path()` (R179). -/
def waitingFastPath (s : State) : State := s.setPair ⟨.bound, false⟩

/-- `binding_bind(src)` (R180), its actions in the order written. -/
def bindingBind (src : Mac) (s : State) : State :=
  ((((s.setPeer ⟨src, true⟩).emit (.persist src)).emit (.addPeer src)).emit
    (.sendBeacon src (ownFlag s.cfg.role ||| 0x80#8))).setPair ⟨.bound, false⟩

/-- PAIR_BEACON (R178): only bit 7 of `role_flags` is read. -/
def execPairBeacon (src : Mac) (roleFlags : Byte) (s : State) : Result :=
  match s.pair.state with
  | .waiting =>
    if s.peer.bound = true ∧ src = s.peer.mac ∧ bindBit roleFlags = false then .next (waitingFastPath s.beginOp)
    else .next (ignore s.beginOp)
  | .binding =>
    if bindBit roleFlags = true ∧ src ≠ broadcast then .next (bindingBind src s.beginOp)
    else .next (ignore s.beginOp)
  | .idle => .next (ignore s.beginOp)
  | .bound => .next (ignore s.beginOp)
  | .cancelled => .next (ignore s.beginOp)

/-- PAIR_CANCEL (R181; kept, log 12). -/
def execPairCancel (s : State) : Result :=
  if s.pair.state = .binding then .next (s.beginOp.setPair { s.pair with state := .cancelled })
  else .next (ignore s.beginOp)

/-- PAIR_ACCEPT (R182): depends on `peer` alone. -/
def execPairAccept (src : Mac) (s : State) : Result :=
  .next (s.beginOp.ret (.bit (s.peer.bound && src == s.peer.mac)))

end Sys2Proof.Machine
end

