-- ==== Sys2Proof/Machine/Reset.lean ====
section
/-! DEFINITION. RESET (70_reset_and_hazards.md R265, R266). -/

namespace Sys2Proof.Machine

/-- RESET (R265): every element of R20 to its reset value of R40, no action; the configuration survives (R266), and so do the
inputs the host has already issued, which are not state of the block (log 3). -/
def execReset (s : State) : Result :=
  .next { State.resetWith s.cfg with inbox := s.inbox }

end Sys2Proof.Machine
end

