-- ==== Sys2Proof/Machine/Dispatch.lean ====
section
/-! DEFINITION. One arm per instruction: the meaning it calls. -/

namespace Sys2Proof.Machine

def exec (i : Instr) (s : State) : Host.Outcome State Fault Refusal :=
  match i with
  | .reset => Sys2Proof.Machine.execReset s
  | .tick => Sys2Proof.Machine.execTick s
  | .rollover => Sys2Proof.Machine.execRollover s
  | .edge t => Sys2Proof.Machine.execEdge t s
  | .take => Sys2Proof.Machine.execTake s
  | .now => Sys2Proof.Machine.execNow s
  | .elapsed since => Sys2Proof.Machine.execElapsed since s
  | .encBeacon seq flags => Sys2Proof.Machine.execEncBeacon seq flags s
  | .encControl seq p => Sys2Proof.Machine.execEncControl seq p s
  | .encTelemetry seq p => Sys2Proof.Machine.execEncTelemetry seq p s
  | .decode b => Sys2Proof.Machine.execDecode b s
  | .pairStart present mac => Sys2Proof.Machine.execPairStart present mac s
  | .pairTimeout => Sys2Proof.Machine.execPairTimeout s
  | .pairBeacon src flags => Sys2Proof.Machine.execPairBeacon src flags s
  | .pairCancel => Sys2Proof.Machine.execPairCancel s
  | .pairAccept src => Sys2Proof.Machine.execPairAccept src s
  | .observe seq => Sys2Proof.Machine.execObserve seq s
  | .healthRead => Sys2Proof.Machine.execHealthRead s
  | .beacon seq flags checksum => Sys2Proof.Machine.execBeacon seq flags checksum s
  | .control seq p checksum => Sys2Proof.Machine.execControl seq p checksum s
  | .telemetry seq p checksum => Sys2Proof.Machine.execTelemetry seq p checksum s

end Sys2Proof.Machine
end

