-- ==== Sys2Proof/Machine/Step.lean ====
section
/-! DEFINITION. One step: the block consumes its next input whole (00_scope.md R5, 20_memory.md R56). -/

namespace Sys2Proof.Machine

/-- The block takes the first waiting input and runs the operation it stands for; an ill-formed word is refused (R16, R88). With
no input waiting the block waits: nothing changes (log 3). -/
def step (s : State) : Host.Outcome State Fault Refusal :=
  match s.inbox with
  | [] => .next s
  | x :: rest =>
    match decodeInput x with
    | .error why => .refused (.illFormed why)
    | .ok i => exec i { s with inbox := rest }

/-- `s` with the input that an opcode-table row stands for put first in the queue, where `step` takes its next input. -/
def State.withFetchWord (s : State) (nbits w : Nat) : State :=
  { s with inbox := tableInput nbits w :: s.inbox }

end Sys2Proof.Machine
end

