-- ==== Sys2Proof/Machine/Environment.lean ====
section
/-! DEFINITION. What stands around the block, as definitions over its operations: the context and the unit of each operation
(30_encoding.md R87), runs of several operations, the pseudo-operations (R91), the receive path that the host follows
(45_host_environment.md R213). Nothing here is part of the block; nothing in the block calls it (log 17). -/

namespace Sys2Proof.Machine

/-- The execution contexts of R87 and R250. -/
inductive Context
  | interrupt
  | task
  | either
  deriving DecidableEq, Repr

/-- The units of R2. -/
inductive CoreUnit
  | all
  | edgeClock
  | ppmDecoder
  | frameCodec
  | pairing
  | linkHealth
  deriving DecidableEq, Repr

/-- The context that issues the operation (R87, R250). A host obligation: the meaning does not depend on it (I17; log 16). A wire packet
reaches the framer in task context, as DECODE does. -/
def contextOf : Instr → Context
  | .tick | .rollover | .edge _ => .interrupt
  | .now | .elapsed _ => .either
  | .reset | .take | .encBeacon _ _ | .encControl _ _ | .encTelemetry _ _ | .decode _ => .task
  | .pairStart _ _ | .pairTimeout | .pairBeacon _ _ | .pairCancel | .pairAccept _ => .task
  | .observe _ | .healthRead | .beacon _ _ _ | .control _ _ _ | .telemetry _ _ _ => .task

/-- The unit the operation belongs to (R87). -/
def unitOf : Instr → CoreUnit
  | .reset => .all
  | .tick | .now | .elapsed _ => .edgeClock
  | .rollover | .edge _ | .take => .ppmDecoder
  | .encBeacon _ _ | .encControl _ _ | .encTelemetry _ _ | .decode _ => .frameCodec
  | .beacon _ _ _ | .control _ _ _ | .telemetry _ _ _ => .frameCodec
  | .pairStart _ _ | .pairTimeout | .pairBeacon _ _ | .pairCancel | .pairAccept _ => .pairing
  | .observe _ | .healthRead => .linkHealth

/-- The operations consumed one after the other (R56), stopping at the first refusal. -/
def runInstrs : List Instr → State → Result
  | [], s => .next s
  | i :: rest, s =>
    match exec i s with
    | .next t => runInstrs rest t
    | .fault r => .fault r
    | .refused r => .refused r

/-- The ENC_ operation of a packet (`ENCODE pkt`, R91). -/
def encodeOperation : Packet → Instr
  | .beacon seq tx rx bind => .encBeacon seq (roleFlagsOf tx rx bind)
  | .control seq p => .encControl seq p
  | .telemetry seq p => .encTelemetry seq p

/-- The pseudo-operations of R91. -/
inductive Pseudo
  | wait (d : Nat)
  | edgeNow
  | edgeAfter (d : Nat)
  | sync (d : Nat)
  | channel (g p : Nat)
  | encode (p : Packet)
  deriving DecidableEq, Repr

/-- `EDGE t=c` for a value `c` of `clk.count` (R91). -/
def edgeAt (count : Nat) : Instr := .edge (BitVec.ofNat 32 count)

/-- `WAIT d` then `EDGE_NOW`, where `clk.count` is `count` before the wait (R91). -/
def waitThenEdge (c : Config) (count d : Nat) : List Instr :=
  List.replicate d .tick ++ [edgeAt ((count + d) % c.modulus)]

/-- The expansion of a pseudo-operation at a point of a trace where `clk.count` is `count` (R91). -/
def expandPseudo (c : Config) (count : Nat) : Pseudo → List Instr
  | .wait d => List.replicate d .tick
  | .edgeNow => [edgeAt count]
  | .edgeAfter d => waitThenEdge c count d
  | .sync d => waitThenEdge c count d
  | .channel g p => waitThenEdge c count g ++ waitThenEdge c ((count + g) % c.modulus) p
  | .encode p => [encodeOperation p]

/-- The sequence number of a packet. -/
def packetSeq : Packet → U16
  | .beacon seq _ _ _ => seq
  | .control seq _ => seq
  | .telemetry seq _ => seq

/-- Where the receive path routes a valid packet from `addr` (R213): a Beacon to the pairing unit, Control and Telemetry to its
acceptance test. -/
def routeOf (addr : Mac) : Packet → Instr
  | .beacon _ tx rx bind => .pairBeacon addr (roleFlagsOf tx rx bind)
  | .control _ _ => .pairAccept addr
  | .telemetry _ _ => .pairAccept addr

/-- The operations the host issues for one `on_receive(addr, bytes)` (R213): DECODE; for a valid packet OBSERVE and then the route;
for a Corrupt one nothing more. -/
def receivePath (c : Config) (addr : Mac) (b : List Byte) : List Instr :=
  match decodeBytes c b with
  | .corrupt _ => [.decode b]
  | .ok p => [.decode b, .observe (packetSeq p), routeOf addr p]

end Sys2Proof.Machine
end

