-- ==== Sys2Proof/Safety.lean ====
section
/-! DEFINITION. What claims call a safe state and a safe run: the invariants of 10_state.md R41, reachability, what no consumer
can observe (R26, R40, I13), which unit's state an operation may write (R39), sound configurations (R268). -/

namespace Sys2Proof.Machine

/-- R41 (a), (b), (d), (e), with the configuration in its ranges (R7, R8, R10) and R25's bound on the gap width. -/
structure Inv (s : State) : Prop where
  config : s.cfg.wf
  count : s.clk.count < s.cfg.modulus
  lastEdge : s.ppm.lastEdge < s.cfg.modulus
  indexBound : s.ppm.channelIndex ≤ numChannels
  indexInFrame : s.ppm.state ≠ .waiting → s.ppm.channelIndex < numChannels
  gapBound : s.ppm.gapWidth.toNat ≤ s.cfg.syncThreshold
  gapUnused : s.cfg.widthMode = .pulseOnly → s.ppm.gapWidth = 0#32
  timer : s.pair.timerArmed = true → s.pair.state = .waiting
  unbound : s.peer.bound = false → s.peer.mac = broadcast

/-- How the pairing unit's four elements hang together in every reachable state (R175 to R181, R88): the timer runs exactly in
Waiting, Idle is unbound, Bound is bound, and a bound peer is "a concrete peer address". -/
structure PairInv (s : State) : Prop where
  timer : s.pair.timerArmed = true ↔ s.pair.state = .waiting
  idle : s.pair.state = .idle → s.peer.bound = false
  bound : s.pair.state = .bound → s.peer.bound = true
  concrete : s.peer.bound = true ↔ s.peer.mac ≠ broadcast

/-- The states that reset, steps and newly issued inputs lead to, under a configuration in its ranges. -/
inductive Reachable : State → Prop
  | boot (c : Config) (h : c.wf) : Reachable (State.resetWith c)
  | issue (s : State) (xs : List Input) (h : Reachable s) : Reachable { s with inbox := s.inbox ++ xs }
  | step (s t : State) (h : Reachable s) (hs : Machine.step s = .next t) : Reachable t

/-- The decoder's in-progress elements that matter in this state agree: in Waiting none (a sync pulse sets the index before it is
read, and every element is stored before it is published); otherwise the index and the elements below it, and in Pulse of mode
GAP_PLUS_PULSE the gap width (R24 to R26). -/
structure SamePartialFrame (c : Config) (p q : Ppm) : Prop where
  state : p.state = q.state
  lastEdge : p.lastEdge = q.lastEdge
  index : p.state ≠ .waiting → p.channelIndex = q.channelIndex
  chan : p.state ≠ .waiting → ∀ i, i < p.channelIndex → p.chan[i]? = q.chan[i]?
  gap : p.state = .pulse → c.widthMode = .gapPlusPulse → p.gapWidth = q.gapWidth

/-- Two states that no later operation's report can tell apart (R26, R40 "unobservable", I13): stale channel values, a stale gap
width, the frame of an empty slot and the last sequence number before the first observation may differ. -/
structure Indistinguishable (s t : State) : Prop where
  cfg : s.cfg = t.cfg
  clk : s.clk = t.clk
  ppm : SamePartialFrame s.cfg s.ppm t.ppm
  full : s.slot.full = t.slot.full
  frame : s.slot.full = true → s.slot.frame = t.slot.frame
  peer : s.peer = t.peer
  pair : s.pair = t.pair
  firstSeq : s.health.firstSeq = t.health.firstSeq
  lastSeq : s.health.firstSeq ≠ none → s.health.lastSeq = t.health.lastSeq
  dropped : s.health.dropped = t.health.dropped
  outOfOrder : s.health.outOfOrder = t.health.outOfOrder
  inbox : s.inbox = t.inbox

/-- Everything but the report is the same. -/
structure OnlyReports (s t : State) : Prop where
  cfg : t.cfg = s.cfg
  clk : t.clk = s.clk
  ppm : t.ppm = s.ppm
  slot : t.slot = s.slot
  peer : t.peer = s.peer
  pair : t.pair = s.pair
  health : t.health = s.health
  inbox : t.inbox = s.inbox

/-- A sync pulse can be found at all (R268). -/
def canSync (c : Config) : Prop := c.syncThreshold + 1 ≤ c.modulus - 1

/-- ValueOverflow cannot arise (R268). -/
def cannotOverflow (c : Config) : Prop :=
  match c.widthMode with
  | .pulseOnly => c.syncThreshold ≤ 65535
  | .gapPlusPulse => c.syncThreshold ≤ 32767

/-- The value of a channel with these interval widths (R134 (a)). -/
def pairValue (c : Config) (g p : Nat) : Nat :=
  match c.widthMode with
  | .pulseOnly => p
  | .gapPlusPulse => g + p

/-- The interval widths of one channel are plausible and its value fits a u16 (R134 (a)). -/
structure PlausiblePair (c : Config) (g p : Nat) : Prop where
  gapLong : c.minGap ≤ g
  gapNoSync : g ≤ c.syncThreshold
  pulseLong : c.minPulse ≤ p
  pulseNoSync : p ≤ c.syncThreshold
  value : pairValue c g p ≤ 65535

/-- The EDGE operations, from an edge at `last`, whose successive widths are the given gap and pulse widths (R134 (a)). -/
def edgesOf (c : Config) (last : Nat) : List (Nat × Nat) → List Instr
  | [] => []
  | (g, p) :: rest =>
    edgeAt ((last + g) % c.modulus) :: edgeAt ((last + g + p) % c.modulus) :: edgesOf c ((last + g + p) % c.modulus) rest

/-- An operation word that R88 refuses, case by case on its bytes. -/
def wordRefused (c : Config) (w : List Byte) : Prop :=
  match w[0]? with
  | none => True
  | some b =>
    match opcode? b with
    | none => True
    | some .edge => w.length ≠ 5 ∨ c.modulus ≤ (read32 w 1).toNat
    | some .elapsed => w.length ≠ 5 ∨ c.modulus ≤ (read32 w 1).toNat
    | some .encBeacon => w.length ≠ 4 ∨ read8 w 3 &&& 0x7C#8 ≠ 0#8
    | some .decode => w.length < 2 ∨ (read8 w 1).toNat + 2 ≠ w.length
    | some .pairStart =>
      w.length ≠ 8 ∨ (read8 w 1 ≠ 0x00#8 ∧ read8 w 1 ≠ 0x01#8) ∨ (read8 w 1 = 0x00#8 ∧ macAt w 2 ≠ zeroMac) ∨
        (read8 w 1 = 0x01#8 ∧ macAt w 2 = broadcast)
    | some op => w.length ≠ op.length

/-- The six rows of R185: the pairing inputs that some transition names. -/
def pairTransitionListed (s : State) : Instr → Prop
  | .pairStart _ _ => s.pair.state = .idle
  | .pairTimeout => s.pair.state = .waiting ∧ s.pair.timerArmed = true
  | .pairBeacon src f =>
    (s.pair.state = .waiting ∧ s.peer.bound = true ∧ src = s.peer.mac ∧ f.getLsbD 7 = false) ∨
      (s.pair.state = .binding ∧ f.getLsbD 7 = true ∧ src ≠ broadcast)
  | .pairCancel => s.pair.state = .binding
  | _ => True

/-- A packet's bytes with one bit flipped, bit 0 the least significant of byte 0 (R160). -/
def flipBit (i : Nat) (b : List Byte) : List Byte := write8 b (i / 8) (read8 b (i / 8) ^^^ (1#8 <<< (i % 8)))

end Sys2Proof.Machine
end

