-- ==== Sys2Proof/Certificates/Slice0/Obligations.lean ====
section
/-! DEFINITION. The statements about the model, each with the rule of spec/ it formalises. OBLIGATIONS.json lists them. -/

open Sys2Proof Sys2Proof.Machine

/-! ### Reset -/

/-- R40, row by row, for every configuration (the rows whose ground is D9 are the spec's own decision). -/
def Obligations.ResetValuesOfEveryElement : Prop :=
  ∀ c : Config,
    (State.resetWith c).clk.count = 0 ∧
    (State.resetWith c).ppm.state = .waiting ∧ (State.resetWith c).ppm.lastEdge = 0 ∧
    (State.resetWith c).ppm.channelIndex = 0 ∧ (State.resetWith c).ppm.gapWidth = 0#32 ∧
    (∀ i (h : i < 9), (State.resetWith c).ppm.chan[i] = 0#16) ∧
    (∀ i (h : i < 9), (State.resetWith c).slot.frame[i] = 0#16) ∧ (State.resetWith c).slot.full = false ∧
    (∀ i (h : i < 6), (State.resetWith c).peer.mac[i] = 0xFF#8) ∧ (State.resetWith c).peer.bound = false ∧
    (State.resetWith c).pair.state = .idle ∧ (State.resetWith c).pair.timerArmed = false ∧
    (State.resetWith c).health.firstSeq = none ∧ (State.resetWith c).health.lastSeq = 0#16 ∧
    (State.resetWith c).health.dropped = 0#32 ∧ (State.resetWith c).health.outOfOrder = 0#32 ∧
    (State.resetWith c).cfg = c

/-- R265 (decision D27): RESET, opcode 0x00, gives every element its reset value in one operation, with no action. (Nothing is said
of the inputs still waiting: what RESET does to them is the model's choice, log 3.) -/
def Obligations.ResetOperationRestoresEveryElement : Prop :=
  encode .reset = .operation [0x00#8] ∧
  ∀ s : State, ∃ t, exec .reset s = .next t ∧
    { t with inbox := [] } = { State.resetWith s.cfg with inbox := [], out := ⟨.done, .none, []⟩ }

/-! ### EdgeClock -/

/-- R106 and R110 (decision D8): TICK, opcode 0x01, adds one modulo MODULUS; at MODULUS - 1 the count becomes 0 and the rollover
effect is part of the same operation; `last_edge` and everything else is untouched. -/
def Obligations.TickCountsAndRollsOver : Prop :=
  encode .tick = .operation [0x01#8] ∧
  (∀ s : State, s.clk.count + 1 < s.cfg.modulus →
    exec .tick s = .next { s with clk := ⟨s.clk.count + 1⟩, out := ⟨.done, .none, []⟩ }) ∧
  (∀ s : State, s.clk.count + 1 = s.cfg.modulus →
    exec .tick s = .next { s with
      clk := ⟨0⟩
      ppm := { s.ppm with state := .waiting }
      out := ⟨if s.ppm.state = .waiting then .done else .frameAbort .rollover, .none, []⟩ })

/-- R107: NOW, opcode 0x05: the result is `clk.count`, no state is written; in a state that meets the invariants the u32 holds the
whole count. -/
def Obligations.NowReturnsTheCount : Prop :=
  encode .now = .operation [0x05#8] ∧
  ∀ s : State, exec .now s = .next { s with out := ⟨.done, .u32 (BitVec.ofNat 32 s.clk.count), []⟩ } ∧
    (Inv s → (BitVec.ofNat 32 s.clk.count).toNat = s.clk.count)

/-- R108: `elapsed` is below MODULUS and equals `(now - since) mod MODULUS`; equal arguments give 0. -/
def Obligations.ElapsedIsTheForwardDistance : Prop :=
  ∀ modulus now since : Nat, now < modulus → since < modulus →
    elapsed modulus now since = (if now ≥ since then now - since else now + (modulus - since)) ∧
    elapsed modulus now since < modulus ∧
    (elapsed modulus now since : Int) = ((now : Int) - since) % modulus ∧
    (now = since → elapsed modulus now since = 0)

/-- R112, which the spec derives from R108: a true time of D ticks since the last edge is measured as D modulo MODULUS; a silence of
a multiple of MODULUS reads as 0. -/
def Obligations.WidthIsTheTrueTimeModuloModulus : Prop :=
  ∀ modulus last d : Nat, last < modulus →
    elapsed modulus ((last + d) % modulus) last = d % modulus

/-- R109: ELAPSED, opcode 0x06: the result is `elapsed(clk.count, since)`, no state is written; an operand that is not below MODULUS
is refused; in a state that meets the invariants the u32 holds the whole distance. -/
def Obligations.ElapsedReturnsTheDistance : Prop :=
  ∀ (s : State) (since : U32),
    encode (.elapsed since) = .operation (0x06#8 :: le32 since) ∧
    (since.toNat < s.cfg.modulus →
      exec (.elapsed since) s = .next { s with
        out := ⟨.done, .u32 (BitVec.ofNat 32 (elapsed s.cfg.modulus s.clk.count since.toNat)), []⟩ }) ∧
    (s.cfg.modulus ≤ since.toNat → exec (.elapsed since) s = .refused (.illFormed .operandNotBelowModulus)) ∧
    (Inv s → since.toNat < s.cfg.modulus →
      (BitVec.ofNat 32 (elapsed s.cfg.modulus s.clk.count since.toNat)).toNat
        = elapsed s.cfg.modulus s.clk.count since.toNat)

/-! ### PPM decoder -/

/-- R121, its first two lines and its refusal: EDGE, opcode 0x03, with any operand below MODULUS completes in every state and sets
`last_edge` to it; any other operand is refused. (What it does by width and state: R122 to R128 below.) -/
def Obligations.EdgeSetsLastEdgeInEveryState : Prop :=
  ∀ (s : State) (t : U32),
    encode (.edge t) = .operation (0x03#8 :: le32 t) ∧
    (t.toNat < s.cfg.modulus → ∃ u, exec (.edge t) s = .next u ∧ u.ppm.lastEdge = t.toNat) ∧
    (s.cfg.modulus ≤ t.toNat → exec (.edge t) s = .refused (.illFormed .operandNotBelowModulus))

/-- R270, which the spec derives from R121 and R40: the first edge after reset is measured from 0, so its width is its timestamp. -/
def Obligations.FirstEdgeAfterResetIsMeasuredFromZero : Prop :=
  ∀ (c : Config) (t : U32), t.toNat < c.modulus →
    ∃ u, exec (.edge t) (State.resetWith c) = .next u ∧ (u.ppm.state = .gap ↔ c.syncThreshold < t.toNat) ∧
      (u.ppm.state ≠ .gap → u.ppm.state = .waiting)

/-- R122: a width above SYNC_THRESHOLD starts a frame in every state; a frame in progress is dropped with SyncDiscard. -/
def Obligations.EdgeAboveThresholdStartsAFrame : Prop :=
  ∀ (s : State) (t : U32), t.toNat < s.cfg.modulus →
    s.cfg.syncThreshold < elapsed s.cfg.modulus t.toNat s.ppm.lastEdge →
    exec (.edge t) s = .next { s with
      ppm := { s.ppm with lastEdge := t.toNat, channelIndex := 0, state := .gap }
      out := ⟨if s.ppm.state = .waiting then .done else .syncDiscard, .none, []⟩ }

/-- R123: in Waiting an edge that ends no sync pulse changes nothing but `last_edge`. -/
def Obligations.EdgeInWaitingOnlyMovesLastEdge : Prop :=
  ∀ (s : State) (t : U32), t.toNat < s.cfg.modulus →
    elapsed s.cfg.modulus t.toNat s.ppm.lastEdge ≤ s.cfg.syncThreshold → s.ppm.state = .waiting →
    exec (.edge t) s = .next { s with ppm := { s.ppm with lastEdge := t.toNat }, out := ⟨.done, .none, []⟩ }

/-- R124: the edge that ends a Gap: too short aborts, otherwise Pulse, with the gap width recorded in mode GAP_PLUS_PULSE only. -/
def Obligations.EdgeEndsAGap : Prop :=
  ∀ (s : State) (t : U32), t.toNat < s.cfg.modulus →
    elapsed s.cfg.modulus t.toNat s.ppm.lastEdge ≤ s.cfg.syncThreshold → s.ppm.state = .gap →
    (elapsed s.cfg.modulus t.toNat s.ppm.lastEdge < s.cfg.minGap →
      exec (.edge t) s = .next { s with
        ppm := { s.ppm with lastEdge := t.toNat, state := .waiting }
        out := ⟨.frameAbort .gapTooShort, .none, []⟩ }) ∧
    (s.cfg.minGap ≤ elapsed s.cfg.modulus t.toNat s.ppm.lastEdge →
      exec (.edge t) s = .next { s with
        ppm := { s.ppm with
          lastEdge := t.toNat
          state := .pulse
          gapWidth := if s.cfg.widthMode = .gapPlusPulse
            then BitVec.ofNat 32 (elapsed s.cfg.modulus t.toNat s.ppm.lastEdge) else s.ppm.gapWidth }
        out := ⟨.done, .none, []⟩ })

/-- R125 and R126: the edge that ends a Pulse. Too short, or a value above 65535: abort. Otherwise the value is stored and the index
incremented; below N the next Gap begins and the slot is untouched; at N the whole frame is published and the state is Waiting. -/
def Obligations.EdgeEndsAPulse : Prop :=
  ∀ (s : State) (t : U32) (v : Nat), t.toNat < s.cfg.modulus →
    elapsed s.cfg.modulus t.toNat s.ppm.lastEdge ≤ s.cfg.syncThreshold → s.ppm.state = .pulse →
    v = (if s.cfg.widthMode = .gapPlusPulse then s.ppm.gapWidth.toNat else 0)
      + elapsed s.cfg.modulus t.toNat s.ppm.lastEdge →
    (elapsed s.cfg.modulus t.toNat s.ppm.lastEdge < s.cfg.minPulse →
      exec (.edge t) s = .next { s with
        ppm := { s.ppm with lastEdge := t.toNat, state := .waiting }
        out := ⟨.frameAbort .pulseTooShort, .none, []⟩ }) ∧
    (s.cfg.minPulse ≤ elapsed s.cfg.modulus t.toNat s.ppm.lastEdge → 65535 < v →
      exec (.edge t) s = .next { s with
        ppm := { s.ppm with lastEdge := t.toNat, state := .waiting }
        out := ⟨.frameAbort .valueOverflow, .none, []⟩ }) ∧
    (∀ h : s.ppm.channelIndex < 9,
      s.cfg.minPulse ≤ elapsed s.cfg.modulus t.toNat s.ppm.lastEdge → v ≤ 65535 →
      (s.ppm.channelIndex + 1 < 9 →
        exec (.edge t) s = .next { s with
          ppm := { s.ppm with
            lastEdge := t.toNat
            state := .gap
            channelIndex := s.ppm.channelIndex + 1
            chan := s.ppm.chan.set s.ppm.channelIndex (BitVec.ofNat 16 v) h }
          out := ⟨.done, .none, []⟩ }) ∧
      (s.ppm.channelIndex + 1 = 9 →
        exec (.edge t) s = .next { s with
          ppm := { s.ppm with
            lastEdge := t.toNat
            state := .waiting
            channelIndex := 9
            chan := s.ppm.chan.set s.ppm.channelIndex (BitVec.ofNat 16 v) h }
          slot := ⟨s.ppm.chan.set s.ppm.channelIndex (BitVec.ofNat 16 v) h, true⟩
          out := ⟨.done, .none, []⟩ }))

/-- R127's complete test (decision D11): exactly which edges abort a frame, and that an abort writes nothing but `ppm.state` (beside
the `last_edge` that every edge writes): the frame slot keeps what it held. -/
def Obligations.FrameAbortsExactlyWhenImplausible : Prop :=
  ∀ (s u : State) (t : U32), exec (.edge t) s = .next u →
    ((∃ cause, u.out.outcome = .frameAbort cause) ↔
      elapsed s.cfg.modulus t.toNat s.ppm.lastEdge ≤ s.cfg.syncThreshold ∧
        ((s.ppm.state = .gap ∧ elapsed s.cfg.modulus t.toNat s.ppm.lastEdge < s.cfg.minGap) ∨
          (s.ppm.state = .pulse ∧
            (elapsed s.cfg.modulus t.toNat s.ppm.lastEdge < s.cfg.minPulse ∨
              65535 < (if s.cfg.widthMode = .gapPlusPulse then s.ppm.gapWidth.toNat else 0)
                + elapsed s.cfg.modulus t.toNat s.ppm.lastEdge)))) ∧
    (∀ cause, u.out.outcome = .frameAbort cause →
      u = { s with ppm := { s.ppm with lastEdge := t.toNat, state := .waiting }, out := ⟨.frameAbort cause, .none, []⟩ })

/-- R129: ROLLOVER, opcode 0x02: Waiting, nothing else written; FrameAbort(Rollover) exactly when a frame was in progress. -/
def Obligations.RolloverForcesWaiting : Prop :=
  encode .rollover = .operation [0x02#8] ∧
  ∀ s : State, exec .rollover s = .next { s with
    ppm := { s.ppm with state := .waiting }
    out := ⟨if s.ppm.state = .waiting then .done else .frameAbort .rollover, .none, []⟩ }

/-- R130 (decision D13): TAKE, opcode 0x04: a full slot is delivered and emptied, its frame not cleared; an empty one answers Empty
and None. -/
def Obligations.TakeDeliversAndEmptiesTheSlot : Prop :=
  encode .take = .operation [0x04#8] ∧
  ∀ s : State,
    (s.slot.full = true → exec .take s = .next { s with
      slot := { s.slot with full := false }
      out := ⟨.done, .frame (some s.slot.frame), []⟩ }) ∧
    (s.slot.full = false → exec .take s = .next { s with out := ⟨.empty, .frame none, []⟩ })

/-- R57 and R126: the slot changes only by RESET, by TAKE emptying it, and by the publication that ends the last channel, which
delivers exactly `chan`. No consumer sees a partial frame. -/
def Obligations.SlotChangesOnlyByPublicationTakeAndReset : Prop :=
  ∀ (i : Instr) (s t : State), exec i s = .next t → t.slot ≠ s.slot →
    i = .reset ∨ (i = .take ∧ s.slot.full = true ∧ t.slot = ⟨s.slot.frame, false⟩) ∨
      (∃ u, i = .edge u ∧ s.ppm.state = .pulse ∧ 9 ≤ s.ppm.channelIndex + 1 ∧ t.ppm.state = .waiting ∧
        t.slot = ⟨t.ppm.chan, true⟩)

/-- R134 (a), for runs of EDGE alone: from any state, a sync edge and then N plausible pairs publish exactly once, at the last edge,
the values of the pairs; before it the slot is as at the start. -/
def Obligations.FullFrameIsPublishedExactlyOnce : Prop :=
  ∀ (s : State) (t : U32) (pairs : List (Nat × Nat)), s.cfg.wf → t.toNat < s.cfg.modulus →
    s.cfg.syncThreshold < s.cfg.modulus →
    s.cfg.syncThreshold < elapsed s.cfg.modulus t.toNat s.ppm.lastEdge →
    pairs.length = 9 → (∀ gp ∈ pairs, PlausiblePair s.cfg gp.1 gp.2) →
    (∀ k, k < 19 → ∃ u, runInstrs ((.edge t :: edgesOf s.cfg t.toNat pairs).take k) s = .next u ∧ u.slot = s.slot) ∧
    (∃ u, runInstrs (.edge t :: edgesOf s.cfg t.toNat pairs) s = .next u ∧ u.slot.full = true ∧
      u.ppm.state = .waiting ∧
      u.slot.frame.toList = pairs.map fun gp => BitVec.ofNat 16 (pairValue s.cfg gp.1 gp.2))

/-- R134 (b), (d): fewer than N pairs publish nothing, and the sync edge that then comes drops the partial frame. -/
def Obligations.SyncPulseMidFrameDiscardsIt : Prop :=
  ∀ (s : State) (t t' : U32) (pairs : List (Nat × Nat)), s.cfg.wf → t.toNat < s.cfg.modulus →
    s.cfg.syncThreshold < s.cfg.modulus →
    s.cfg.syncThreshold < elapsed s.cfg.modulus t.toNat s.ppm.lastEdge →
    pairs.length < 9 → (∀ gp ∈ pairs, PlausiblePair s.cfg gp.1 gp.2) →
    ∃ u, runInstrs (.edge t :: edgesOf s.cfg t.toNat pairs) s = .next u ∧ u.slot = s.slot ∧
      u.ppm.state = .gap ∧ u.ppm.channelIndex = pairs.length ∧
      (t'.toNat < s.cfg.modulus → s.cfg.syncThreshold < elapsed s.cfg.modulus t'.toNat u.ppm.lastEdge →
        ∃ v, exec (.edge t') u = .next v ∧ v.out.outcome = .syncDiscard ∧ v.slot = s.slot ∧ v.ppm.state = .gap ∧
          v.ppm.channelIndex = 0)

/-- R26 and R41 (c), as a claim about what can be observed: two states that differ only in stale channel values, a stale gap width,
the frame of an empty slot or the last sequence number before the first observation answer every operation with the same report
and stay so. -/
def Obligations.StaleValuesAreNeverObservable : Prop :=
  ∀ (i : Instr) (s t s' : State), Indistinguishable s t → exec i s = .next s' →
    ∃ t', exec i t = .next t' ∧ Indistinguishable s' t' ∧ t'.out = s'.out

/-- R268: with SYNC_THRESHOLD >= MODULUS - 1 the decoder never leaves Waiting; under its bound on SYNC_THRESHOLD no operation ends
in ValueOverflow. -/
def Obligations.SoundConfigurationsOfTheDecoder : Prop :=
  ∀ (i : Instr) (s t : State), Inv s → exec i s = .next t →
    (¬ canSync s.cfg → s.ppm.state = .waiting → t.ppm.state = .waiting) ∧
    (cannotOverflow s.cfg → t.out.outcome ≠ .frameAbort .valueOverflow)

/-! ### Framer -/

/-- R153: ENC_BEACON, opcode 0x20: the six bytes, with the checksum of the packet whose checksum field is zero; reserved bits are
refused. -/
def Obligations.EncBeaconProducesSixBytes : Prop :=
  ∀ (s : State) (seq : U16) (f : Byte) (c : U16),
    c = crc16 s.cfg [0x00#8, lowByte seq, highByte seq, f, 0x00#8, 0x00#8] →
    encode (.encBeacon seq f) = .operation [0x20#8, lowByte seq, highByte seq, f] ∧
    (f &&& 0x7C#8 = 0#8 → exec (.encBeacon seq f) s = .next { s with
      out := ⟨.done, .bytes [0x00#8, lowByte seq, highByte seq, f, lowByte c, highByte c], []⟩ }) ∧
    (f &&& 0x7C#8 ≠ 0#8 → exec (.encBeacon seq f) s = .refused (.illFormed .reservedRoleFlags))

/-- R154: ENC_CONTROL, opcode 0x21: the twenty-one bytes, every u16 value legal. -/
def Obligations.EncControlProducesTwentyOneBytes : Prop :=
  ∀ (s : State) (seq m0 m1 m2 b0 b1 b2 s0 s1 c : U16) (rest : List Byte),
    rest = le16 seq ++ le16 m0 ++ le16 m1 ++ le16 m2 ++ le16 b0 ++ le16 b1 ++ le16 b2 ++ le16 s0 ++ le16 s1 →
    c = crc16 s.cfg (0x01#8 :: (rest ++ [0x00#8, 0x00#8])) →
    encode (.encControl seq ⟨#v[m0, m1, m2], #v[b0, b1, b2], #v[s0, s1]⟩) = .operation (0x21#8 :: rest) ∧
    exec (.encControl seq ⟨#v[m0, m1, m2], #v[b0, b1, b2], #v[s0, s1]⟩) s =
      .next { s with out := ⟨.done, .bytes (0x01#8 :: (rest ++ [lowByte c, highByte c])), []⟩ }

/-- R155: ENC_TELEMETRY, opcode 0x22: the thirteen bytes. -/
def Obligations.EncTelemetryProducesThirteenBytes : Prop :=
  ∀ (s : State) (seq v n l e c : U16) (rest : List Byte),
    rest = le16 seq ++ le16 v ++ le16 n ++ le16 l ++ le16 e →
    c = crc16 s.cfg (0x02#8 :: (rest ++ [0x00#8, 0x00#8])) →
    encode (.encTelemetry seq ⟨v, n, l, e⟩) = .operation (0x22#8 :: rest) ∧
    exec (.encTelemetry seq ⟨v, n, l, e⟩) s =
      .next { s with out := ⟨.done, .bytes (0x02#8 :: (rest ++ [lowByte c, highByte c])), []⟩ }

/-- R156 as an operation: DECODE, opcode 0x28, writes no state; the result is the packet, or Corrupt, which also labels the
operation; for a buffer of any length (I23), and with an operation word for every length up to 255. -/
def Obligations.DecodeReportsItsResult : Prop :=
  ∀ (s : State) (b : List Byte),
    encode (.decode b) = .operation (0x28#8 :: BitVec.ofNat 8 b.length :: b) ∧
    ((Instr.decode b).wf = true ↔ b.length ≤ 255) ∧
    (∀ p, decodeBytes s.cfg b = .ok p →
      exec (.decode b) s = .next { s with out := ⟨.done, .decoded (.ok p), []⟩ }) ∧
    (∀ cause, decodeBytes s.cfg b = .corrupt cause →
      exec (.decode b) s = .next { s with out := ⟨.corrupt cause, .decoded (.corrupt cause), []⟩ })

/-- R156's pseudocode with R158 (decision D16): length, then checksum, then type and L(type), then the fields at their offsets. -/
def Obligations.DecodeTestsLengthChecksumTypeInOrder : Prop :=
  ∀ (c : Config) (b : List Byte) (z : List Byte), z = b.take (b.length - 2) ++ [0x00#8, 0x00#8] →
    (b.length < 5 → decodeBytes c b = .corrupt .tooShort) ∧
    (5 ≤ b.length → crc16 c z ≠ read16 b (b.length - 2) → decodeBytes c b = .corrupt .badChecksum) ∧
    (5 ≤ b.length → crc16 c z = read16 b (b.length - 2) →
      (3 ≤ (read8 b 0).toNat → decodeBytes c b = .corrupt .unknownType) ∧
      (read8 b 0 = 0x00#8 → b.length ≠ 6 → decodeBytes c b = .corrupt .badLength) ∧
      (read8 b 0 = 0x01#8 → b.length ≠ 21 → decodeBytes c b = .corrupt .badLength) ∧
      (read8 b 0 = 0x02#8 → b.length ≠ 13 → decodeBytes c b = .corrupt .badLength) ∧
      (read8 b 0 = 0x00#8 → b.length = 6 → decodeBytes c b = .ok (.beacon (read16 b 1)
        ((read8 b 3).getLsbD 0) ((read8 b 3).getLsbD 1) ((read8 b 3).getLsbD 7))) ∧
      (read8 b 0 = 0x01#8 → b.length = 21 → decodeBytes c b = .ok (.control (read16 b 1)
        ⟨#v[read16 b 3, read16 b 5, read16 b 7], #v[read16 b 9, read16 b 11, read16 b 13],
          #v[read16 b 15, read16 b 17]⟩)) ∧
      (read8 b 0 = 0x02#8 → b.length = 13 → decodeBytes c b = .ok (.telemetry (read16 b 1)
        ⟨read16 b 3, read16 b 5, read16 b 7, read16 b 9⟩)))

/-- A received wire packet is put through DECODE (the model's choice for the table's packet rows, log 5): with the packet's bytes
at the offsets of R78 to R80. -/
def Obligations.WirePacketsGoThroughDecode : Prop :=
  ∀ (s : State) (seq c : U16) (f : Byte) (p : ControlPayload) (q : TelemetryPayload),
    (∃ t, exec (.beacon seq f c) s = .next t ∧
      exec (.decode ([0x00#8] ++ le16 seq ++ [f] ++ le16 c)) s = .next t) ∧
    (∃ t, exec (.control seq p c) s = .next t ∧
      exec (.decode ([0x01#8] ++ le16 seq ++ le16 p.motors[0] ++ le16 p.motors[1] ++ le16 p.motors[2] ++ le16 p.brakes[0]
        ++ le16 p.brakes[1] ++ le16 p.brakes[2] ++ le16 p.servos[0] ++ le16 p.servos[1] ++ le16 c)) s = .next t) ∧
    (∃ t, exec (.telemetry seq q c) s = .next t ∧
      exec (.decode ([0x02#8] ++ le16 seq ++ le16 q.batteryVoltage ++ le16 q.packetCount ++ le16 q.packetLoss
        ++ le16 q.sequenceErrors ++ le16 c)) s = .next t)

/-- R159: for every configuration and every packet, DECODE of the bytes ENC_ gives returns the packet. -/
def Obligations.DecodingAnEncodedPacketGivesItBack : Prop :=
  ∀ (c : Config) (p : Packet), decodeBytes c (encodePacket c p) = .ok p

/-- R159, the converse: a buffer that decodes is the encoding of its packet, except a Beacon with reserved bits set. -/
def Obligations.EncodingADecodedBufferGivesItBack : Prop :=
  ∀ (c : Config) (b : List Byte) (p : Packet), decodeBytes c b = .ok p →
    (read8 b 0 = 0x00#8 → read8 b 3 &&& 0x7C#8 = 0#8) → encodePacket c p = b

/-- R160: whenever the polynomial has more than one term, every single-bit flip of an encoded packet is detected. -/
def Obligations.EverySingleBitFlipIsDetected : Prop :=
  ∀ (c : Config) (p : Packet) (i : Nat), c.crcPolyRefl ≠ 0#16 → i < 8 * (encodePacket c p).length →
    decodeBytes c (flipBit i (encodePacket c p)) = .corrupt .badChecksum

/-- R150: no framer operation writes any state, and its report is a function of its operand and the configuration alone. -/
def Obligations.FramerOperationsArePure : Prop :=
  ∀ (i : Instr) (s t s' : State), unitOf i = .frameCodec → exec i s = .next t → s'.cfg = s.cfg →
    OnlyReports s t ∧ ∃ t', exec i s' = .next t' ∧ t'.out = t.out ∧ OnlyReports s' t'

/-! ### Pairing -/

/-- R176 (decision D18): PAIR_START, opcode 0x30. From Idle both branches arm the timer, install the peer and add it; elsewhere
Ignored; operands that R88 excludes are refused. -/
def Obligations.PairStartInstallsThePeer : Prop :=
  ∀ (s : State) (mac : Mac),
    encode (.pairStart true mac) = .operation (0x30#8 :: 0x01#8 :: mac.toList) ∧
    encode (.pairStart false mac) = .operation (0x30#8 :: 0x00#8 :: mac.toList) ∧
    (s.pair.state = .idle → mac ≠ broadcast → exec (.pairStart true mac) s = .next { s with
      peer := ⟨mac, true⟩, pair := ⟨.waiting, true⟩, out := ⟨.done, .none, [.addPeer mac]⟩ }) ∧
    (s.pair.state = .idle → exec (.pairStart false zeroMac) s = .next { s with
      peer := ⟨broadcast, false⟩, pair := ⟨.waiting, true⟩, out := ⟨.done, .none, [.addPeer broadcast]⟩ }) ∧
    (s.pair.state ≠ .idle → mac ≠ broadcast →
      exec (.pairStart true mac) s = .next { s with out := ⟨.ignored, .none, [.log]⟩ }) ∧
    (s.pair.state ≠ .idle → exec (.pairStart false zeroMac) s = .next { s with out := ⟨.ignored, .none, [.log]⟩ }) ∧
    exec (.pairStart true broadcast) s = .refused (.illFormed .persistedMacBroadcast) ∧
    (mac ≠ zeroMac → exec (.pairStart false mac) s = .refused (.illFormed .absentMacNotZero))

/-- R177 (decision D18): PAIR_TIMEOUT, opcode 0x31: from Waiting with the timer armed to Binding, the peer unchanged; otherwise
Ignored. -/
def Obligations.PairTimeoutOpensBinding : Prop :=
  encode .pairTimeout = .operation [0x31#8] ∧
  ∀ s : State,
    (s.pair.state = .waiting → s.pair.timerArmed = true → exec .pairTimeout s = .next { s with
      pair := ⟨.binding, false⟩, out := ⟨.done, .none, [.indicateNoPartner]⟩ }) ∧
    (s.pair.state ≠ .waiting ∨ s.pair.timerArmed = false →
      exec .pairTimeout s = .next { s with out := ⟨.ignored, .none, [.log]⟩ })

/-- R178 to R180 (decision D20): PAIR_BEACON, opcode 0x32: the fast path from Waiting, the bind from Binding with its three actions in order, and Ignored elsewhere. -/
def Obligations.PairBeaconBindsOrIsIgnored : Prop :=
  ∀ (s : State) (src : Mac) (f : Byte),
    encode (.pairBeacon src f) = .operation (0x32#8 :: (src.toList ++ [f])) ∧
    (s.pair.state = .waiting → s.peer.bound = true → src = s.peer.mac → f.getLsbD 7 = false →
      exec (.pairBeacon src f) s = .next { s with pair := ⟨.bound, false⟩, out := ⟨.done, .none, []⟩ }) ∧
    (s.pair.state = .binding → f.getLsbD 7 = true → src ≠ broadcast →
      exec (.pairBeacon src f) s = .next { s with
        peer := ⟨src, true⟩
        pair := ⟨.bound, false⟩
        out := ⟨.done, .none, [.persist src, .addPeer src,
          .sendBeacon src (match s.cfg.role with | .transmitter => 0x81#8 | .receiver => 0x82#8)]⟩ }) ∧
    (¬ (s.pair.state = .waiting ∧ s.peer.bound = true ∧ src = s.peer.mac ∧ f.getLsbD 7 = false) →
      ¬ (s.pair.state = .binding ∧ f.getLsbD 7 = true ∧ src ≠ broadcast) →
      exec (.pairBeacon src f) s = .next { s with out := ⟨.ignored, .none, [.log]⟩ })

/-- R181 (decision D19): PAIR_CANCEL, opcode 0x33: Binding to Cancelled, the peer and the timer bit unchanged; Ignored elsewhere; and
Cancelled is left only by RESET, a persisted peer staying accepted. -/
def Obligations.PairCancelLeavesBindingForGood : Prop :=
  encode .pairCancel = .operation [0x33#8] ∧
  (∀ s : State,
    (s.pair.state = .binding → exec .pairCancel s = .next { s with
      pair := { s.pair with state := .cancelled }, out := ⟨.done, .none, []⟩ }) ∧
    (s.pair.state ≠ .binding → exec .pairCancel s = .next { s with out := ⟨.ignored, .none, [.log]⟩ })) ∧
  (∀ (i : Instr) (s t : State), s.pair.state = .cancelled → i ≠ .reset → exec i s = .next t →
    t.pair = s.pair ∧ t.peer = s.peer)

/-- R182 (decision D21): PAIR_ACCEPT, opcode 0x34: the result is 1 exactly for the bound peer's address, whatever `pair.state` is; no state is written. -/
def Obligations.PairAcceptTestsTheBoundAddress : Prop :=
  ∀ (s : State) (src : Mac), ∃ r : Bool,
    encode (.pairAccept src) = .operation (0x34#8 :: src.toList) ∧
    exec (.pairAccept src) s = .next { s with out := ⟨.done, .bit r, []⟩ } ∧
    (r = true ↔ s.peer.bound = true ∧ src = s.peer.mac)

/-- R187 (decision D20) over R185's table: a pairing operation that no transition names changes no state, logs, and is Ignored. -/
def Obligations.UnlistedPairingInputsAreIgnored : Prop :=
  ∀ (i : Instr) (s : State), unitOf i = .pairing → i.admissible s.cfg = true → ¬ pairTransitionListed s i →
    exec i s = .next { s with out := ⟨.ignored, .none, [.log]⟩ }

/-- R183: from Bound, only RESET changes the pairing state or the peer. -/
def Obligations.BoundIsLeftOnlyByReset : Prop :=
  ∀ (i : Instr) (s t : State), s.pair.state = .bound → i ≠ .reset → exec i s = .next t →
    t.pair = s.pair ∧ t.peer = s.peer

/-- R186, which the spec derives from R178 and R180: a Transmitter's BIND beacon binds a Receiver that is in Binding; the Receiver's
acknowledgement binds the Transmitter; the Transmitter's own acknowledgement is then ignored, and the exchange ends. -/
def Obligations.TwoNodesBindToEachOther : Prop :=
  ∀ (tx rx : State) (addrTx addrRx : Mac), tx.cfg.role = .transmitter → rx.cfg.role = .receiver →
    tx.pair.state = .binding → rx.pair.state = .binding → addrTx ≠ broadcast → addrRx ≠ broadcast →
    ∃ rx' tx' rx'' back ack, exec (.pairBeacon addrTx 0x81#8) rx = .next rx' ∧
      rx'.peer = ⟨addrTx, true⟩ ∧ rx'.pair.state = .bound ∧ .sendBeacon addrTx back ∈ rx'.out.actions ∧
      exec (.pairBeacon addrRx back) tx = .next tx' ∧
      tx'.peer = ⟨addrRx, true⟩ ∧ tx'.pair.state = .bound ∧ .sendBeacon addrRx ack ∈ tx'.out.actions ∧
      exec (.pairBeacon addrTx ack) rx' = .next rx'' ∧ OnlyReports rx' rx'' ∧ rx''.out.outcome = .ignored

/-! ### Link health -/

/-- R200 (decision D22): OBSERVE, opcode 0x40: the first observation seeds; then in order, after a gap, or out of order, by the distance on the circle. -/
def Obligations.ObserveCountsGapsAndReordering : Prop :=
  ∀ (s : State) (seq : U16) (d : Nat), d = (seq.toNat + 65536 - s.health.lastSeq.toNat) % 65536 →
    encode (.observe seq) = .operation (0x40#8 :: le16 seq) ∧
    (s.health.firstSeq = none → exec (.observe seq) s = .next { s with
      health := { s.health with firstSeq := some seq, lastSeq := seq }, out := ⟨.done, .none, []⟩ }) ∧
    (s.health.firstSeq ≠ none → d = 0 ∨ 32768 ≤ d → exec (.observe seq) s = .next { s with
      health := { s.health with outOfOrder := BitVec.ofNat 32 (min (s.health.outOfOrder.toNat + 1) 4294967295) }
      out := ⟨.done, .none, []⟩ }) ∧
    (s.health.firstSeq ≠ none → 1 ≤ d → d < 32768 → exec (.observe seq) s = .next { s with
      health := { s.health with
        dropped := BitVec.ofNat 32 (min (s.health.dropped.toNat + (d - 1)) 4294967295)
        lastSeq := seq }
      out := ⟨.done, .none, []⟩ })

/-- R203 (decision D22): HEALTH_READ, opcode 0x41: the triple, with `packet_count` 0 before the first observation; no state is written. -/
def Obligations.HealthReadReturnsTheTriple : Prop :=
  encode .healthRead = .operation [0x41#8] ∧
  ∀ (s : State) (n : U16),
    (match s.health.firstSeq with
      | none => n = 0#16
      | some f => n.toNat = (s.health.lastSeq.toNat + 65536 - f.toNat) % 65536) →
    exec .healthRead s = .next { s with out := ⟨.done, .health n s.health.dropped s.health.outOfOrder, []⟩ }

/-- R202: the counters never decrease but by RESET. -/
def Obligations.LinkCountersNeverDecrease : Prop :=
  ∀ (i : Instr) (s t : State), i ≠ .reset → exec i s = .next t →
    s.health.dropped.toNat ≤ t.health.dropped.toNat ∧ s.health.outOfOrder.toNat ≤ t.health.outOfOrder.toNat

/-- R204: no operation of another unit reads `health`: changing it changes nothing else, and no report but HEALTH_READ's. -/
def Obligations.HealthHasNoEffectOnTraffic : Prop :=
  ∀ (i : Instr) (s t : State) (h : Health), exec i s = .next t →
    ∃ h', exec i { s with health := h } =
        .next { t with health := h', out := if i = .healthRead then
          ⟨.done, .health (packetCount h) h.dropped h.outOfOrder, []⟩ else t.out }

/-! ### The whole machine -/

/-- R41 holds after reset under every configuration in its ranges. -/
def Obligations.ResetMeetsTheInvariants : Prop :=
  (∀ c : Config, c.wf → Inv (State.resetWith c) ∧ PairInv (State.resetWith c)) ∧ Inv State.reset ∧ PairInv State.reset

/-- R41: every step keeps the invariants (a), (b), (d), (e), R25's bound and the configuration's ranges. -/
def Obligations.EveryStepKeepsTheInvariants : Prop :=
  ∀ s t : State, Inv s → step s = .next t → Inv t

/-- Every step keeps what ties the pairing unit's elements together (derived from R176 to R181 and R88). -/
def Obligations.EveryStepKeepsThePairingInvariant : Prop :=
  ∀ s t : State, PairInv s → step s = .next t → PairInv t

/-- R41: in every reachable state. -/
def Obligations.EveryReachableStateMeetsTheInvariants : Prop :=
  ∀ s : State, Reachable s → Inv s ∧ PairInv s

/-- R20's column "written by", and R39: which operations may change each state element. -/
def Obligations.ElementsAreWrittenOnlyByTheirOperations : Prop :=
  ∀ (i : Instr) (s t : State), exec i s = .next t → i ≠ .reset →
    (t.clk.count ≠ s.clk.count → i = .tick) ∧
    (t.ppm.state ≠ s.ppm.state → (∃ u, i = .edge u) ∨ i = .rollover ∨ (i = .tick ∧ t.clk.count = 0)) ∧
    (t.ppm.lastEdge ≠ s.ppm.lastEdge → ∃ u, i = .edge u) ∧
    (t.ppm.channelIndex ≠ s.ppm.channelIndex → ∃ u, i = .edge u) ∧
    (t.ppm.gapWidth ≠ s.ppm.gapWidth → s.ppm.state = .gap ∧ s.cfg.widthMode = .gapPlusPulse ∧ ∃ u, i = .edge u) ∧
    (t.ppm.chan ≠ s.ppm.chan → s.ppm.state = .pulse ∧ ∃ u, i = .edge u) ∧
    (t.slot.frame ≠ s.slot.frame → ∃ u, i = .edge u) ∧
    (t.slot.full ≠ s.slot.full → (∃ u, i = .edge u) ∨ i = .take) ∧
    (t.peer ≠ s.peer → (∃ p m, i = .pairStart p m) ∨ (∃ m f, i = .pairBeacon m f)) ∧
    (t.pair.state ≠ s.pair.state →
      (∃ p m, i = .pairStart p m) ∨ i = .pairTimeout ∨ (∃ m f, i = .pairBeacon m f) ∨ i = .pairCancel) ∧
    (t.pair.timerArmed ≠ s.pair.timerArmed →
      (∃ p m, i = .pairStart p m) ∨ i = .pairTimeout ∨ (∃ m f, i = .pairBeacon m f)) ∧
    (t.health ≠ s.health → ∃ q, i = .observe q)

/-- R37: no operation writes the configuration. -/
def Obligations.ConfigurationIsConstant : Prop :=
  ∀ s t : State, step s = .next t → t.cfg = s.cfg

/-- R17 and R235: which operations end in which named outcome; every action comes from a pairing operation. -/
def Obligations.OutcomesComeFromTheirOperations : Prop :=
  ∀ (i : Instr) (s t : State), exec i s = .next t →
    (t.out.outcome = .frameAbort .rollover → s.ppm.state ≠ .waiting ∧ t.ppm.state = .waiting ∧ (i = .rollover ∨ i = .tick)) ∧
    (∀ cause, t.out.outcome = .frameAbort cause → cause ≠ .rollover → s.ppm.state ≠ .waiting ∧ ∃ u, i = .edge u) ∧
    (t.out.outcome = .syncDiscard → s.ppm.state ≠ .waiting ∧ ∃ u, i = .edge u) ∧
    (∀ cause, t.out.outcome = .corrupt cause → unitOf i = .frameCodec ∧ OnlyReports s t) ∧
    (t.out.outcome = .ignored → unitOf i = .pairing ∧ OnlyReports s t ∧ t.out.actions = [.log]) ∧
    (t.out.outcome = .empty → i = .take ∧ s.slot.full = false ∧ OnlyReports s t) ∧
    (t.out.actions ≠ [] → unitOf i = .pairing)

/-- A step runs the instruction that the first waiting input stands for, on the state with that input consumed; an ill-formed word
is refused; with no input waiting nothing changes (the model's choice, log 3). -/
def Obligations.StepRunsTheDecodedInstruction : Prop :=
  ∀ (s : State) (x : Input) (rest : List Input) (i : Instr) (why : IllFormed),
    (s.inbox = x :: rest → decodeInput x = .ok i → step s = exec i { s with inbox := rest }) ∧
    (s.inbox = x :: rest → decodeInput x = .error why → step s = .refused (.illFormed why)) ∧
    (s.inbox = [] → step s = .next s)

/-- The words that are refused, case by case on their bytes, as R88 lists them; every other word runs. That a word of no bytes is
refused too, and that a run ends with a refusal, is the model's choice (log 13). -/
def Obligations.ExactlyTheIllFormedWordsAreRefused : Prop :=
  ∀ (s : State) (w : List Byte) (rest : List Input), s.inbox = .operation w :: rest →
    (wordRefused s.cfg w → ∃ why, step s = .refused (.illFormed why)) ∧
    (¬ wordRefused s.cfg w → ∃ t, step s = .next t)

/-- R75 to R81 and I23: a received packet is never refused. -/
def Obligations.ReceivedPacketsAlwaysRun : Prop :=
  ∀ (s : State) (b : List Byte) (rest : List Input), s.inbox = .packet b :: rest →
    step s = exec (.decode b) { s with inbox := rest } ∧ ∃ t, step s = .next t

/-- Every admissible instruction completes: the only stop is R88's refusal. -/
def Obligations.AdmissibleInstructionsComplete : Prop :=
  ∀ (i : Instr) (s : State), (i.admissible s.cfg = true ↔ ∃ t, exec i s = .next t)

/-! ### Encodings -/

/-- R86 and R87, R78 to R80: the input that encodes a well-formed instruction decodes to it, for every operand. -/
def Obligations.DecodingAnEncodedInstructionGivesItBack : Prop :=
  ∀ i : Instr, i.wf = true → decodeInput (encode i) = .ok i

/-- No two operation words stand for one operation: a word that decodes is the operation's encoding, and the operation is well
formed. -/
def Obligations.EveryOperationWordIsTheEncodingOfItsOperation : Prop :=
  ∀ (w : List Byte) (i : Instr), decodeInput (.operation w) = .ok i → encode i = .operation w ∧ i.wf = true

/-- R86's last sentence: an ENC_ word is the packet it produces, 0x20 added to byte 0, without the checksum. -/
def Obligations.EncWordIsThePacketWithoutItsChecksum : Prop :=
  ∀ (c : Config) (p : Packet), ∃ b tail, encodePacket c p = b :: tail ∧
    encode (encodeOperation p) = .operation ((b + 0x20#8) :: tail.take (tail.length - 2))

/-- A few words written out from R86 and R87, and packets from R78. -/
def Obligations.WordsOfTheSpecDecodeAsWritten : Prop :=
  decodeInput (.operation [0x03, 0xC8, 0x32, 0x00, 0x00]) = .ok (.edge 13000#32) ∧
  decodeInput (.operation [0x30, 0x01, 0x02, 0x00, 0x00, 0x00, 0x00, 0x0A]) =
    .ok (.pairStart true #v[0x02, 0x00, 0x00, 0x00, 0x00, 0x0A]) ∧
  decodeInput (.operation [0x20, 0x34, 0x12, 0x82]) = .ok (.encBeacon 0x1234#16 0x82#8) ∧
  decodeInput (.operation [0x40, 0x07, 0x00]) = .ok (.observe 7#16) ∧
  decodeInput (.operation [0x04]) = .ok .take ∧
  decodeInput (.packet [0x00, 0x34, 0x12, 0x82, 0x32, 0xB2]) = .ok (.beacon 0x1234#16 0x82#8 0xB232#16)

/-! ### The host's operations -/

/-- R91 and R106: `WAIT d` below the wrap adds d ticks to the clock and changes nothing else but the report; `EDGE_AFTER d` hands
EDGE the clock's value at that point. -/
def Obligations.WaitAddsItsTicks : Prop :=
  ∀ (s : State) (d : Nat), s.clk.count + d < s.cfg.modulus → s.cfg.modulus ≤ 4294967296 →
    ∃ r, runInstrs (expandPseudo s.cfg s.clk.count (.wait d)) s = .next { s with clk := ⟨s.clk.count + d⟩, out := r } ∧
      runInstrs (expandPseudo s.cfg s.clk.count (.edgeAfter d)) s =
        exec (.edge (BitVec.ofNat 32 (s.clk.count + d))) { s with clk := ⟨s.clk.count + d⟩, out := r }

/-- R213, the block's part: a buffer that decodes is observed by its `seq` and then routed, a Beacon to PAIR_BEACON, the others to
PAIR_ACCEPT; a buffer that does not decode is neither observed nor routed (R157, R201). -/
def Obligations.ReceivePathObservesThenRoutes : Prop :=
  ∀ (s : State) (addr : Mac) (b : List Byte),
    (∀ p, decodeBytes s.cfg b = .ok p → ∃ r,
      runInstrs (receivePath s.cfg addr b) s =
        exec (match p with
          | .beacon _ tx rx bind => .pairBeacon addr (roleFlagsOf tx rx bind)
          | .control _ _ => .pairAccept addr
          | .telemetry _ _ => .pairAccept addr)
        { s with
          health := observeSeq (match p with | .beacon seq _ _ _ => seq | .control seq _ => seq | .telemetry seq _ => seq) s.health
          out := r }) ∧
    (∀ cause, decodeBytes s.cfg b = .corrupt cause →
      runInstrs (receivePath s.cfg addr b) s = .next { s with
        out := ⟨.corrupt cause, .decoded (.corrupt cause), []⟩ })
end

