-- ==== Sys2Proof/Laws/State.lean ====
section
/-! SUPPORT. One lemma per field per update of the state, all true by rfl, so that no proof unfolds a record update. -/

namespace Sys2Proof.Machine

variable (s : State)

@[simp] theorem State.setClk_cfg (c : Clock) : (s.setClk c).cfg = s.cfg := rfl
@[simp] theorem State.setClk_clk (c : Clock) : (s.setClk c).clk = c := rfl
@[simp] theorem State.setClk_ppm (c : Clock) : (s.setClk c).ppm = s.ppm := rfl
@[simp] theorem State.setClk_slot (c : Clock) : (s.setClk c).slot = s.slot := rfl
@[simp] theorem State.setClk_peer (c : Clock) : (s.setClk c).peer = s.peer := rfl
@[simp] theorem State.setClk_pair (c : Clock) : (s.setClk c).pair = s.pair := rfl
@[simp] theorem State.setClk_health (c : Clock) : (s.setClk c).health = s.health := rfl
@[simp] theorem State.setClk_inbox (c : Clock) : (s.setClk c).inbox = s.inbox := rfl
@[simp] theorem State.setClk_out (c : Clock) : (s.setClk c).out = s.out := rfl

@[simp] theorem State.setPpm_cfg (p : Ppm) : (s.setPpm p).cfg = s.cfg := rfl
@[simp] theorem State.setPpm_clk (p : Ppm) : (s.setPpm p).clk = s.clk := rfl
@[simp] theorem State.setPpm_ppm (p : Ppm) : (s.setPpm p).ppm = p := rfl
@[simp] theorem State.setPpm_slot (p : Ppm) : (s.setPpm p).slot = s.slot := rfl
@[simp] theorem State.setPpm_peer (p : Ppm) : (s.setPpm p).peer = s.peer := rfl
@[simp] theorem State.setPpm_pair (p : Ppm) : (s.setPpm p).pair = s.pair := rfl
@[simp] theorem State.setPpm_health (p : Ppm) : (s.setPpm p).health = s.health := rfl
@[simp] theorem State.setPpm_inbox (p : Ppm) : (s.setPpm p).inbox = s.inbox := rfl
@[simp] theorem State.setPpm_out (p : Ppm) : (s.setPpm p).out = s.out := rfl

@[simp] theorem State.setSlot_cfg (x : Slot) : (s.setSlot x).cfg = s.cfg := rfl
@[simp] theorem State.setSlot_clk (x : Slot) : (s.setSlot x).clk = s.clk := rfl
@[simp] theorem State.setSlot_ppm (x : Slot) : (s.setSlot x).ppm = s.ppm := rfl
@[simp] theorem State.setSlot_slot (x : Slot) : (s.setSlot x).slot = x := rfl
@[simp] theorem State.setSlot_peer (x : Slot) : (s.setSlot x).peer = s.peer := rfl
@[simp] theorem State.setSlot_pair (x : Slot) : (s.setSlot x).pair = s.pair := rfl
@[simp] theorem State.setSlot_health (x : Slot) : (s.setSlot x).health = s.health := rfl
@[simp] theorem State.setSlot_inbox (x : Slot) : (s.setSlot x).inbox = s.inbox := rfl
@[simp] theorem State.setSlot_out (x : Slot) : (s.setSlot x).out = s.out := rfl

@[simp] theorem State.setPeer_cfg (p : Peer) : (s.setPeer p).cfg = s.cfg := rfl
@[simp] theorem State.setPeer_clk (p : Peer) : (s.setPeer p).clk = s.clk := rfl
@[simp] theorem State.setPeer_ppm (p : Peer) : (s.setPeer p).ppm = s.ppm := rfl
@[simp] theorem State.setPeer_slot (p : Peer) : (s.setPeer p).slot = s.slot := rfl
@[simp] theorem State.setPeer_peer (p : Peer) : (s.setPeer p).peer = p := rfl
@[simp] theorem State.setPeer_pair (p : Peer) : (s.setPeer p).pair = s.pair := rfl
@[simp] theorem State.setPeer_health (p : Peer) : (s.setPeer p).health = s.health := rfl
@[simp] theorem State.setPeer_inbox (p : Peer) : (s.setPeer p).inbox = s.inbox := rfl
@[simp] theorem State.setPeer_out (p : Peer) : (s.setPeer p).out = s.out := rfl

@[simp] theorem State.setPair_cfg (p : Pairing) : (s.setPair p).cfg = s.cfg := rfl
@[simp] theorem State.setPair_clk (p : Pairing) : (s.setPair p).clk = s.clk := rfl
@[simp] theorem State.setPair_ppm (p : Pairing) : (s.setPair p).ppm = s.ppm := rfl
@[simp] theorem State.setPair_slot (p : Pairing) : (s.setPair p).slot = s.slot := rfl
@[simp] theorem State.setPair_peer (p : Pairing) : (s.setPair p).peer = s.peer := rfl
@[simp] theorem State.setPair_pair (p : Pairing) : (s.setPair p).pair = p := rfl
@[simp] theorem State.setPair_health (p : Pairing) : (s.setPair p).health = s.health := rfl
@[simp] theorem State.setPair_inbox (p : Pairing) : (s.setPair p).inbox = s.inbox := rfl
@[simp] theorem State.setPair_out (p : Pairing) : (s.setPair p).out = s.out := rfl

@[simp] theorem State.setHealth_cfg (h : Health) : (s.setHealth h).cfg = s.cfg := rfl
@[simp] theorem State.setHealth_clk (h : Health) : (s.setHealth h).clk = s.clk := rfl
@[simp] theorem State.setHealth_ppm (h : Health) : (s.setHealth h).ppm = s.ppm := rfl
@[simp] theorem State.setHealth_slot (h : Health) : (s.setHealth h).slot = s.slot := rfl
@[simp] theorem State.setHealth_peer (h : Health) : (s.setHealth h).peer = s.peer := rfl
@[simp] theorem State.setHealth_pair (h : Health) : (s.setHealth h).pair = s.pair := rfl
@[simp] theorem State.setHealth_health (h : Health) : (s.setHealth h).health = h := rfl
@[simp] theorem State.setHealth_inbox (h : Health) : (s.setHealth h).inbox = s.inbox := rfl
@[simp] theorem State.setHealth_out (h : Health) : (s.setHealth h).out = s.out := rfl

@[simp] theorem State.setOut_cfg (r : Report) : (s.setOut r).cfg = s.cfg := rfl
@[simp] theorem State.setOut_clk (r : Report) : (s.setOut r).clk = s.clk := rfl
@[simp] theorem State.setOut_ppm (r : Report) : (s.setOut r).ppm = s.ppm := rfl
@[simp] theorem State.setOut_slot (r : Report) : (s.setOut r).slot = s.slot := rfl
@[simp] theorem State.setOut_peer (r : Report) : (s.setOut r).peer = s.peer := rfl
@[simp] theorem State.setOut_pair (r : Report) : (s.setOut r).pair = s.pair := rfl
@[simp] theorem State.setOut_health (r : Report) : (s.setOut r).health = s.health := rfl
@[simp] theorem State.setOut_inbox (r : Report) : (s.setOut r).inbox = s.inbox := rfl
@[simp] theorem State.setOut_out (r : Report) : (s.setOut r).out = r := rfl

@[simp] theorem State.beginOp_cfg : s.beginOp.cfg = s.cfg := rfl
@[simp] theorem State.beginOp_clk : s.beginOp.clk = s.clk := rfl
@[simp] theorem State.beginOp_ppm : s.beginOp.ppm = s.ppm := rfl
@[simp] theorem State.beginOp_slot : s.beginOp.slot = s.slot := rfl
@[simp] theorem State.beginOp_peer : s.beginOp.peer = s.peer := rfl
@[simp] theorem State.beginOp_pair : s.beginOp.pair = s.pair := rfl
@[simp] theorem State.beginOp_health : s.beginOp.health = s.health := rfl
@[simp] theorem State.beginOp_inbox : s.beginOp.inbox = s.inbox := rfl
@[simp] theorem State.beginOp_out : s.beginOp.out = Report.fresh := rfl

@[simp] theorem State.label_cfg (o : OpOutcome) : (s.label o).cfg = s.cfg := rfl
@[simp] theorem State.label_clk (o : OpOutcome) : (s.label o).clk = s.clk := rfl
@[simp] theorem State.label_ppm (o : OpOutcome) : (s.label o).ppm = s.ppm := rfl
@[simp] theorem State.label_slot (o : OpOutcome) : (s.label o).slot = s.slot := rfl
@[simp] theorem State.label_peer (o : OpOutcome) : (s.label o).peer = s.peer := rfl
@[simp] theorem State.label_pair (o : OpOutcome) : (s.label o).pair = s.pair := rfl
@[simp] theorem State.label_health (o : OpOutcome) : (s.label o).health = s.health := rfl
@[simp] theorem State.label_inbox (o : OpOutcome) : (s.label o).inbox = s.inbox := rfl
@[simp] theorem State.label_out (o : OpOutcome) : (s.label o).out = { s.out with outcome := o } := rfl

@[simp] theorem State.ret_cfg (v : Value) : (s.ret v).cfg = s.cfg := rfl
@[simp] theorem State.ret_clk (v : Value) : (s.ret v).clk = s.clk := rfl
@[simp] theorem State.ret_ppm (v : Value) : (s.ret v).ppm = s.ppm := rfl
@[simp] theorem State.ret_slot (v : Value) : (s.ret v).slot = s.slot := rfl
@[simp] theorem State.ret_peer (v : Value) : (s.ret v).peer = s.peer := rfl
@[simp] theorem State.ret_pair (v : Value) : (s.ret v).pair = s.pair := rfl
@[simp] theorem State.ret_health (v : Value) : (s.ret v).health = s.health := rfl
@[simp] theorem State.ret_inbox (v : Value) : (s.ret v).inbox = s.inbox := rfl
@[simp] theorem State.ret_out (v : Value) : (s.ret v).out = { s.out with result := v } := rfl

@[simp] theorem State.emit_cfg (a : Action) : (s.emit a).cfg = s.cfg := rfl
@[simp] theorem State.emit_clk (a : Action) : (s.emit a).clk = s.clk := rfl
@[simp] theorem State.emit_ppm (a : Action) : (s.emit a).ppm = s.ppm := rfl
@[simp] theorem State.emit_slot (a : Action) : (s.emit a).slot = s.slot := rfl
@[simp] theorem State.emit_peer (a : Action) : (s.emit a).peer = s.peer := rfl
@[simp] theorem State.emit_pair (a : Action) : (s.emit a).pair = s.pair := rfl
@[simp] theorem State.emit_health (a : Action) : (s.emit a).health = s.health := rfl
@[simp] theorem State.emit_inbox (a : Action) : (s.emit a).inbox = s.inbox := rfl
@[simp] theorem State.emit_out (a : Action) : (s.emit a).out = { s.out with actions := s.out.actions ++ [a] } := rfl

@[simp] theorem ignore_cfg : (ignore s).cfg = s.cfg := rfl
@[simp] theorem ignore_clk : (ignore s).clk = s.clk := rfl
@[simp] theorem ignore_ppm : (ignore s).ppm = s.ppm := rfl
@[simp] theorem ignore_slot : (ignore s).slot = s.slot := rfl
@[simp] theorem ignore_peer : (ignore s).peer = s.peer := rfl
@[simp] theorem ignore_pair : (ignore s).pair = s.pair := rfl
@[simp] theorem ignore_health : (ignore s).health = s.health := rfl
@[simp] theorem ignore_inbox : (ignore s).inbox = s.inbox := rfl
@[simp] theorem ignore_out : (ignore s).out = ⟨.ignored, s.out.result, s.out.actions ++ [.log]⟩ := rfl

@[simp] theorem Report.fresh_outcome : Report.fresh.outcome = .done := rfl
@[simp] theorem Report.fresh_result : Report.fresh.result = .none := rfl
@[simp] theorem Report.fresh_actions : Report.fresh.actions = [] := rfl

@[simp] theorem PpmState.inFrame_iff (p : PpmState) : p.inFrame = true ↔ p ≠ .waiting := by
  cases p <;> simp [PpmState.inFrame]

/-- Two states with the same fields are the same state. -/
theorem State.ext_fields {s t : State} (h1 : s.cfg = t.cfg) (h2 : s.clk = t.clk) (h3 : s.ppm = t.ppm) (h4 : s.slot = t.slot)
    (h5 : s.peer = t.peer) (h6 : s.pair = t.pair) (h7 : s.health = t.health) (h8 : s.inbox = t.inbox) (h9 : s.out = t.out) :
    s = t := by
  cases s; cases t; simp_all

end Sys2Proof.Machine
end

