-- ==== Sys2Proof/Laws/Ops.lean ====
section
/-! SUPPORT. What the shared functions of Machine/Ops.lean and Machine/Flags.lean give: `elapsed`, saturation, channel values. -/

namespace Sys2Proof.Machine

/-- The width of R108 stays below MODULUS. -/
theorem elapsed_lt {m now since : Nat} (hn : now < m) (hs : since < m) : elapsed m now since < m := by
  unfold elapsed; split <;> omega

/-- Going `d` ticks on from `last`, with `d` below MODULUS, is measured as `d`, across the wrap too. -/
theorem elapsed_add_mod {m last d : Nat} (hl : last < m) (hd : d < m) : elapsed m ((last + d) % m) last = d := by
  unfold elapsed
  by_cases h : last + d < m
  · rw [Nat.mod_eq_of_lt h]; split <;> omega
  · have e : (last + d) % m = last + d - m := by
      rw [Nat.mod_eq_sub_mod (by omega), Nat.mod_eq_of_lt (by omega)]
    rw [e]; split <;> omega

@[simp] theorem isSync_iff {c : Config} {w : Nat} : isSync c w = true ↔ c.syncThreshold < w := by simp [isSync]

@[simp] theorem gapTooShort_iff {c : Config} {w : Nat} : gapTooShort c w = true ↔ w < c.minGap := by simp [gapTooShort]

@[simp] theorem pulseTooShort_iff {c : Config} {w : Nat} : pulseTooShort c w = true ↔ w < c.minPulse := by
  simp [pulseTooShort]

@[simp] theorem valueOverflows_iff {v : Nat} : valueOverflows v = true ↔ 65535 < v := by simp [valueOverflows]

@[simp] theorem outOfOrderDistance_iff {d : U16} : outOfOrderDistance d = true ↔ d.toNat = 0 ∨ 32768 ≤ d.toNat := by
  simp [outOfOrderDistance]

@[simp] theorem reservedClear_iff {f : Byte} : reservedClear f = true ↔ f &&& 0x7C#8 = 0#8 := by simp [reservedClear]

/-- The value a channel would be given, with the mode read as a test. -/
theorem channelValue_eq (c : Config) (g : U32) (w : Nat) :
    channelValue c g w = (if c.widthMode = .gapPlusPulse then g.toNat else 0) + w := by
  unfold channelValue; cases c.widthMode <;> simp

theorem sat32_toNat (x : Nat) : (sat32 x).toNat = min x 4294967295 := by
  unfold sat32; rw [BitVec.toNat_ofNat, Nat.mod_eq_of_lt]; omega

/-- Saturating addition to a u32 never decreases it. -/
theorem le_sat32_add (v : U32) (k : Nat) : v.toNat ≤ (sat32 (v.toNat + k)).toNat := by
  rw [sat32_toNat]; have := v.isLt; omega

theorem setIfInBounds_eq_set (f : ChannelFrame) (i : Nat) (v : U16) (h : i < numChannels) :
    f.setIfInBounds i v = f.set i v h := by
  ext j hj; simp [Vector.getElem_setIfInBounds, Vector.getElem_set]

end Sys2Proof.Machine
end

