-- ==== Sys2Proof/Laws/Bytes.lean ====
section
/-! SUPPORT. Byte order: splitting a u16 or u32 into bytes and reading it back, and what reads see after writes (20_memory.md R51). -/

namespace Sys2Proof.Machine

@[simp] theorem u16_of_bytes (v : U16) : BitVec.ofNat 16 ((lowByte v).toNat + 256 * (highByte v).toNat) = v := by
  apply BitVec.eq_of_toNat_eq
  have := v.isLt
  simp [lowByte, highByte, Nat.shiftRight_eq_div_pow]
  omega

theorem lowByte_ofNat (lo hi : Byte) : lowByte (BitVec.ofNat 16 (lo.toNat + 256 * hi.toNat)) = lo := by
  apply BitVec.eq_of_toNat_eq
  have := lo.isLt; have := hi.isLt
  simp [lowByte]; omega

theorem highByte_ofNat (lo hi : Byte) : highByte (BitVec.ofNat 16 (lo.toNat + 256 * hi.toNat)) = hi := by
  apply BitVec.eq_of_toNat_eq
  have := lo.isLt; have := hi.isLt
  simp [highByte, Nat.shiftRight_eq_div_pow]; omega

@[simp] theorem u32_of_bytes (v : U32) :
    BitVec.ofNat 32 ((v.setWidth 8).toNat + 256 * ((v >>> 8).setWidth 8).toNat + 65536 * ((v >>> 16).setWidth 8).toNat
      + 16777216 * ((v >>> 24).setWidth 8).toNat) = v := by
  apply BitVec.eq_of_toNat_eq
  have := v.isLt
  simp [Nat.shiftRight_eq_div_pow]
  omega

/-- The four bytes of a u32 that was put together from four bytes are those bytes. -/
theorem le32_ofNat (a b c d : Byte) :
    le32 (BitVec.ofNat 32 (a.toNat + 256 * b.toNat + 65536 * c.toNat + 16777216 * d.toNat)) = [a, b, c, d] := by
  have := a.isLt; have := b.isLt; have := c.isLt; have := d.isLt
  unfold le32
  congr 1
  · apply BitVec.eq_of_toNat_eq; simp; omega
  congr 1
  · apply BitVec.eq_of_toNat_eq; simp [Nat.shiftRight_eq_div_pow]; omega
  congr 1
  · apply BitVec.eq_of_toNat_eq; simp [Nat.shiftRight_eq_div_pow]; omega
  congr 1
  · apply BitVec.eq_of_toNat_eq; simp [Nat.shiftRight_eq_div_pow]; omega

@[simp] theorem le16_length (v : U16) : (le16 v).length = 2 := rfl
@[simp] theorem le32_length (v : U32) : (le32 v).length = 4 := rfl
@[simp] theorem controlBytes_length (p : ControlPayload) : (controlBytes p).length = 16 := rfl
@[simp] theorem telemetryBytes_length (p : TelemetryPayload) : (telemetryBytes p).length = 8 := rfl
@[simp] theorem write8_length (b : List Byte) (o : Nat) (v : Byte) : (write8 b o v).length = b.length := by simp [write8]
@[simp] theorem write16_length (b : List Byte) (o : Nat) (v : U16) : (write16 b o v).length = b.length := by simp [write16]

/-- A read of one byte after a write of one byte. -/
theorem read8_write8 (b : List Byte) (o j : Nat) (v : Byte) :
    read8 (write8 b o v) j = if o = j ∧ o < b.length then v else read8 b j := by
  unfold read8 write8
  simp only [List.getD_eq_getElem?_getD, List.getElem?_set]
  by_cases h : o = j
  · subst h
    by_cases h' : o < b.length <;> simp [h']
  · simp [h]

/-- A read of one byte after a write of two. -/
theorem read8_write16 (b : List Byte) (o j : Nat) (v : U16) :
    read8 (write16 b o v) j = if o + 1 = j ∧ o + 1 < b.length then highByte v
      else if o = j ∧ o < b.length then lowByte v else read8 b j := by
  unfold write16; rw [read8_write8, write8_length, read8_write8]

/-- A u16 read where it was written is the u16 written. -/
theorem read16_write16 (b : List Byte) (o : Nat) (v : U16) (h : o + 1 < b.length) : read16 (write16 b o v) o = v := by
  unfold read16
  rw [read8_write16, read8_write16]
  simp [h, Nat.lt_of_succ_lt h]

/-- Two buffers of one length that read the same at every offset are the same buffer. -/
theorem eq_of_read8 {a b : List Byte} (hl : a.length = b.length) (h : ∀ j, j < a.length → read8 a j = read8 b j) : a = b := by
  apply List.ext_getElem hl
  intro j h1 h2
  have := h j h1
  simpa [read8, List.getD_eq_getElem?_getD, h1, h2] using this

/-- The bytes of a peer address, put back together. -/
theorem mac_eta (m : Mac) : #v[m[0], m[1], m[2], m[3], m[4], m[5]] = m := by
  ext i hi; match i, hi with | 0, _ | 1, _ | 2, _ | 3, _ | 4, _ | 5, _ => rfl

theorem mac_toList (m : Mac) : m.toList = [m[0], m[1], m[2], m[3], m[4], m[5]] := by
  conv_lhs => rw [← mac_eta m]
  rfl

theorem vec3_eta (v : Vector U16 3) : #v[v[0], v[1], v[2]] = v := by
  ext i hi; match i, hi with | 0, _ | 1, _ | 2, _ => rfl

theorem vec2_eta (v : Vector U16 2) : #v[v[0], v[1]] = v := by
  ext i hi; match i, hi with | 0, _ | 1, _ => rfl

/-- Laying out a u16 that was read gives back the two bytes it was read from. -/
theorem le16_read16 (b : List Byte) (o : Nat) : le16 (read16 b o) = [read8 b o, read8 b (o + 1)] := by
  simp [le16, read16, lowByte_ofNat, highByte_ofNat]

theorem le32_read32 (b : List Byte) (o : Nat) :
    le32 (read32 b o) = [read8 b o, read8 b (o + 1), read8 b (o + 2), read8 b (o + 3)] := le32_ofNat _ _ _ _

/-- A buffer of a known length, byte by byte. -/
theorem eq_map_read8 (n : Nat) (b : List Byte) (h : b.length = n) : b = (List.range n).map (read8 b) := by
  subst h
  apply List.ext_getElem
  · simp
  · intro i h1 h2
    simp [read8, List.getD_eq_getElem?_getD, h1]

end Sys2Proof.Machine
end

