-- ==== Sys2Proof/Laws/Checksum.lean ====
section
/-! SUPPORT. The checksum (42_frame_codec.md R151, R152): the register is linear in what enters it, a single bit that enters it never
vanishes, and where the checksum field stands in a packet. -/

namespace Sys2Proof.Machine

theorem crcBit_xor (poly a b : U16) : crcBit poly (a ^^^ b) = crcBit poly a ^^^ crcBit poly b := by
  unfold crcBit
  have hs : (a ^^^ b) >>> 1 = (a >>> 1) ^^^ (b >>> 1) := BitVec.ushiftRight_xor_distrib a b 1
  rw [hs, BitVec.getLsbD_xor]
  generalize a >>> 1 = x
  generalize b >>> 1 = y
  have hc : (x ^^^ poly) ^^^ (y ^^^ poly) = x ^^^ y := by
    rw [BitVec.xor_comm y poly, BitVec.xor_assoc, ← BitVec.xor_assoc poly poly y, BitVec.xor_self, BitVec.zero_xor]
  cases a.getLsbD 0 <;> cases b.getLsbD 0
  · rfl
  · exact BitVec.xor_assoc x y poly
  · show (x ^^^ y) ^^^ poly = (x ^^^ poly) ^^^ y
    rw [BitVec.xor_assoc, BitVec.xor_comm y, ← BitVec.xor_assoc]
  · exact hc.symm

theorem crcBits_xor (poly : U16) (n : Nat) (a b : U16) : crcBits poly n (a ^^^ b) = crcBits poly n a ^^^ crcBits poly n b := by
  induction n generalizing a b with
  | zero => rfl
  | succ n ih => simp only [crcBits, crcBit_xor, ih]

theorem crcBits_add (poly : U16) (m n : Nat) (c : U16) : crcBits poly n (crcBits poly m c) = crcBits poly (m + n) c := by
  induction m generalizing c with
  | zero => simp [crcBits]
  | succ m ih => rw [Nat.succ_add]; simp only [crcBits]; exact ih _

theorem crcByte_xor_left (poly c e : U16) (d : Byte) : crcByte poly (c ^^^ e) d = crcByte poly c d ^^^ crcBits poly 8 e := by
  unfold crcByte
  rw [← crcBits_xor, BitVec.xor_assoc, BitVec.xor_comm e, ← BitVec.xor_assoc]

theorem crcByte_xor_right (poly c : U16) (d e : Byte) :
    crcByte poly c (d ^^^ e) = crcByte poly c d ^^^ crcBits poly 8 (e.setWidth 16) := by
  unfold crcByte
  rw [← crcBits_xor, BitVec.setWidth_xor, BitVec.xor_assoc]

/-- A difference in the register runs on through the bytes that follow. -/
theorem foldl_crcByte_xor (poly : U16) (d : List Byte) (c e : U16) :
    d.foldl (crcByte poly) (c ^^^ e) = d.foldl (crcByte poly) c ^^^ crcBits poly (8 * d.length) e := by
  induction d generalizing c e with
  | nil => rfl
  | cons x d ih =>
    simp only [List.foldl_cons, List.length_cons]
    rw [crcByte_xor_left, ih, crcBits_add]
    congr 2; omega

/-- Changing one byte changes the checksum by what that difference becomes. -/
theorem crc16_write8_xor (c : Config) (b : List Byte) (k : Nat) (e : Byte) (h : k < b.length) :
    crc16 c (write8 b k (read8 b k ^^^ e)) =
      crc16 c b ^^^ crcBits c.crcPolyRefl (8 * (b.length - k)) (e.setWidth 16) := by
  have hb : b = b.take k ++ read8 b k :: b.drop (k + 1) := by
    have : read8 b k = b[k] := by simp [read8, List.getD_eq_getElem?_getD, h]
    rw [this, List.getElem_cons_drop, List.take_append_drop]
  have hw : write8 b k (read8 b k ^^^ e) = b.take k ++ (read8 b k ^^^ e) :: b.drop (k + 1) := by
    unfold write8; rw [List.set_eq_take_append_cons_drop, if_pos h]
  rw [hw]
  conv_rhs => rw [hb]
  unfold crc16
  simp only [List.foldl_append, List.foldl_cons, crcByte_xor_right, foldl_crcByte_xor, crcBits_add]
  have : 8 + 8 * (b.drop (k + 1)).length = 8 * (b.length - k) := by rw [List.length_drop]; omega
  rw [this]
  have hl : (b.take k ++ read8 b k :: b.drop (k + 1)).length = b.length := by rw [← hb]
  rw [hl]
  rw [BitVec.xor_assoc, BitVec.xor_assoc, BitVec.xor_comm (crcBits _ _ _)]

/-- What a single bit in the register turns into: still one bit above the polynomial's highest, or something no higher than it that
is not zero. -/
def liveBit (k : Nat) (c : U16) : Prop := (∃ p, k < p ∧ p < 16 ∧ c.toNat = 2 ^ p) ∨ (c.toNat ≠ 0 ∧ c.toNat < 2 ^ (k + 1))

theorem crcBit_keeps_liveBit (poly : U16) (h : poly ≠ 0#16) (c : U16) (hc : liveBit poly.toNat.log2 c) :
    liveBit poly.toNat.log2 (crcBit poly c) := by
  have hp : poly.toNat ≠ 0 := fun e => h (BitVec.eq_of_toNat_eq e)
  have hbit : poly.toNat.testBit poly.toNat.log2 = true := Nat.testBit_log2 hp
  have hlt : poly.toNat < 2 ^ (poly.toNat.log2 + 1) := Nat.lt_log2_self
  generalize poly.toNat.log2 = k at *
  have hodd : c.getLsbD 0 = decide (c.toNat % 2 = 1) := by
    simp [BitVec.getLsbD, Nat.testBit_zero]
  have hsh : (c >>> 1).toNat = c.toNat / 2 := by simp [Nat.shiftRight_eq_div_pow]
  unfold crcBit
  rw [hodd]
  rcases hc with ⟨p, hkp, hp16, hcp⟩ | ⟨h0, hk⟩
  · obtain ⟨q, rfl⟩ : ∃ q, p = q + 1 := ⟨p - 1, by omega⟩
    have e1 : c.toNat % 2 = 0 := by rw [hcp, Nat.pow_succ]; omega
    have e2 : c.toNat / 2 = 2 ^ q := by rw [hcp, Nat.pow_succ]; omega
    rw [if_neg (by simp [e1])]
    by_cases hq : k < q
    · exact .inl ⟨q, hq, by omega, by rw [hsh, e2]⟩
    · have : q = k := by omega
      subst this
      refine .inr ⟨?_, ?_⟩
      · rw [hsh, e2]; exact Nat.ne_of_gt (Nat.two_pow_pos q)
      · rw [hsh, e2]; exact Nat.pow_lt_pow_right (by omega) (by omega)
  · refine .inr ?_
    have hhalf : c.toNat / 2 < 2 ^ k := by rw [Nat.pow_succ] at hk; omega
    by_cases ho : c.toNat % 2 = 1
    · rw [if_pos (by simp [ho])]
      rw [BitVec.toNat_xor, hsh]
      refine ⟨fun e => ?_, Nat.xor_lt_two_pow (by rw [Nat.pow_succ]; omega) hlt⟩
      have := congrArg (fun n => Nat.testBit n k) e
      simp [Nat.testBit_xor, hbit, Nat.testBit_lt_two_pow hhalf] at this
    · rw [if_neg (by simp [ho]), hsh]
      refine ⟨by omega, by rw [Nat.pow_succ]; omega⟩

theorem crcBits_keeps_liveBit (poly : U16) (h : poly ≠ 0#16) (n : Nat) (c : U16) (hc : liveBit poly.toNat.log2 c) :
    liveBit poly.toNat.log2 (crcBits poly n c) := by
  induction n generalizing c with
  | zero => exact hc
  | succ n ih => exact ih _ (crcBit_keeps_liveBit poly h c hc)

/-- A single bit that enters the register never vanishes, if the polynomial has more than one term (R160). -/
theorem crcBits_single_ne_zero (poly : U16) (h : poly ≠ 0#16) (n j : Nat) (hj : j < 8) :
    crcBits poly n ((1#8 <<< j).setWidth 16) ≠ 0#16 := by
  have e : ((1#8 <<< j).setWidth 16 : U16).toNat = 2 ^ j := by
    match j, hj with | 0, _ | 1, _ | 2, _ | 3, _ | 4, _ | 5, _ | 6, _ | 7, _ => rfl
  have hl : liveBit poly.toNat.log2 ((1#8 <<< j).setWidth 16) := by
    by_cases hk : poly.toNat.log2 < j
    · exact .inl ⟨j, hk, by omega, e⟩
    · refine .inr ⟨?_, ?_⟩
      · rw [e]; exact Nat.ne_of_gt (Nat.two_pow_pos j)
      · rw [e]; exact Nat.pow_lt_pow_right (by omega) (by omega)
  intro hz
  have := crcBits_keeps_liveBit poly h n _ hl
  rw [hz] at this
  rcases this with ⟨p, _, _, hp⟩ | ⟨h0, _⟩
  · have := Nat.two_pow_pos p; simp at hp; omega
  · simp at h0

@[simp] theorem zeroChecksum_length (b : List Byte) : (zeroChecksum b).length = b.length := by simp [zeroChecksum]
@[simp] theorem withChecksum_length (c : Config) (b : List Byte) : (withChecksum c b).length = b.length := by
  simp [withChecksum]

/-- Storing a checksum and taking its field as zero again leaves the packet with a zero field. -/
theorem zeroChecksum_write16 (b : List Byte) (v : U16) : zeroChecksum (write16 b (b.length - 2) v) = zeroChecksum b := by
  unfold zeroChecksum
  rw [write16_length]
  apply eq_of_read8 (by simp)
  intro j _
  simp only [read8_write16, write16_length]
  split
  · rfl
  · split <;> simp_all

/-- The checksum of a packet does not depend on its checksum field (R152). -/
theorem checksumOf_withChecksum (c : Config) (b : List Byte) : checksumOf c (withChecksum c b) = checksumOf c b := by
  unfold checksumOf withChecksum; rw [zeroChecksum_write16]

/-- A packet with its checksum stored carries it. -/
theorem read16_withChecksum (c : Config) (b : List Byte) (h : 2 ≤ b.length) :
    read16 (withChecksum c b) ((withChecksum c b).length - 2) = checksumOf c b := by
  rw [withChecksum_length]
  unfold withChecksum; exact read16_write16 _ _ _ (by omega)

/-- The packet with its checksum field as zero: all bytes but the last two, then two zero bytes (R152). -/
theorem zeroChecksum_eq_take (b : List Byte) (h : 2 ≤ b.length) :
    zeroChecksum b = b.take (b.length - 2) ++ [0x00#8, 0x00#8] := by
  apply eq_of_read8
  · simp; omega
  intro j hj
  rw [zeroChecksum_length] at hj
  unfold zeroChecksum
  rw [read8_write16]
  unfold read8
  simp only [List.getD_eq_getElem?_getD, List.getElem?_append, List.length_take, List.getElem?_take]
  by_cases h1 : b.length - 2 + 1 = j
  · subst h1
    rw [if_pos ⟨rfl, by omega⟩, if_neg (by omega), show b.length - 2 + 1 - min (b.length - 2) b.length = 1 by omega]; rfl
  rw [if_neg (fun k => h1 k.1)]
  by_cases h2 : b.length - 2 = j
  · subst h2
    rw [if_pos ⟨rfl, by omega⟩, if_neg (by omega), show b.length - 2 - min (b.length - 2) b.length = 0 by omega]; rfl
  · rw [if_neg (fun k => h2 k.1), if_pos (by omega), if_pos (by omega)]

end Sys2Proof.Machine
end

