-- ==== Sys2Proof/Laws/Codec.lean ====
section
/-! SUPPORT. Reading back what the encoder lays out: opcodes, packet types, u16 and u32 operands, addresses and payloads at the
offsets of 30_encoding.md R78 to R87; and the three tests of DECODE (42_frame_codec.md R156). -/

namespace Sys2Proof.Machine

/-- Every opcode number is that of its own row (R87). -/
@[simp] theorem opcode?_code (o : Opcode) : opcode? o.code = some o := by cases o <;> rfl

/-- A byte that names an opcode is its number: no two rows share one. -/
theorem code_of_opcode? {b : Byte} {o : Opcode} (h : opcode? b = some o) : o.code = b := by
  have := List.find?_some h
  simpa using this

@[simp] theorem packetType?_code (t : PacketType) : packetType? t.code = some t := by cases t <;> rfl

theorem code_of_packetType? {b : Byte} {t : PacketType} (h : packetType? b = some t) : t.code = b := by
  have := List.find?_some h
  simpa using this

/-- The type codes that are not assigned (R77, R83). -/
theorem packetType?_eq_none_iff {b : Byte} : packetType? b = none ↔ 3 ≤ b.toNat := by
  have h0 : (0 = b.toNat) ↔ PacketType.beacon.code = b := ⟨fun h => BitVec.eq_of_toNat_eq h, fun h => h ▸ rfl⟩
  have h1 : (1 = b.toNat) ↔ PacketType.control.code = b := ⟨fun h => BitVec.eq_of_toNat_eq h, fun h => h ▸ rfl⟩
  have h2 : (2 = b.toNat) ↔ PacketType.telemetry.code = b := ⟨fun h => BitVec.eq_of_toNat_eq h, fun h => h ▸ rfl⟩
  simp only [packetType?, List.find?_eq_none, List.mem_cons, List.not_mem_nil, or_false, forall_eq_or_imp, forall_eq,
    beq_iff_eq, ← h0, ← h1, ← h2]
  omega

@[simp] theorem read8_cons_zero (a : Byte) (l : List Byte) : read8 (a :: l) 0 = a := rfl
@[simp] theorem read8_cons_succ (a : Byte) (l : List Byte) (n : Nat) : read8 (a :: l) (n + 1) = read8 l n := rfl

/-- A u16 operand that stands right after byte 0. -/
theorem read16_cons_le16 (a : Byte) (v : U16) (l : List Byte) : read16 (a :: (le16 v ++ l)) 1 = v := u16_of_bytes v

/-- A u32 operand that stands right after byte 0. -/
theorem read32_cons_le32 (a : Byte) (v : U32) (l : List Byte) : read32 (a :: (le32 v ++ l)) 1 = v := u32_of_bytes v

/-- A Control payload that stands after three bytes. -/
theorem controlPayloadAt_controlBytes (a x y : Byte) (p : ControlPayload) (l : List Byte) :
    controlPayloadAt (a :: x :: y :: (controlBytes p ++ l)) = p := by
  obtain ⟨m, b, s⟩ := p
  simp only [controlPayloadAt, controlBytes, le16, read16, List.cons_append, List.nil_append,
    read8_cons_succ, read8_cons_zero, u16_of_bytes, vec3_eta, vec2_eta]

/-- A Telemetry payload that stands after three bytes. -/
theorem telemetryPayloadAt_telemetryBytes (a x y : Byte) (p : TelemetryPayload) (l : List Byte) :
    telemetryPayloadAt (a :: x :: y :: (telemetryBytes p ++ l)) = p := by
  obtain ⟨v, n, s, e⟩ := p
  simp only [telemetryPayloadAt, telemetryBytes, le16, read16, List.cons_append, List.nil_append,
    read8_cons_succ, read8_cons_zero, u16_of_bytes]

/-- A peer address at an offset, from the bytes it was laid out as (R86). -/
theorem macAt_toList (m : Mac) (l : List Byte) : macAt (m.toList ++ l) 0 = m := by
  conv_rhs => rw [← mac_eta m]
  rw [mac_toList]; rfl

/-- A list with at least one byte starts with what `read8` reads at 0. -/
theorem cons_of_length_pos {b : List Byte} (h : 0 < b.length) : b = read8 b 0 :: b.drop 1 := by
  cases b with
  | nil => cases h
  | cons a l => rfl

/-- DECODE's first test (R156). -/
theorem decodeBytes_tooShort (c : Config) {b : List Byte} (h : b.length < 5) : decodeBytes c b = .corrupt .tooShort := by
  unfold decodeBytes; exact if_pos h

/-- DECODE's second test (R156). -/
theorem decodeBytes_badChecksum {c : Config} {b : List Byte} (h : 5 ≤ b.length)
    (hc : checksumOf c b ≠ read16 b (b.length - 2)) : decodeBytes c b = .corrupt .badChecksum := by
  unfold decodeBytes; rw [if_neg (by omega), if_pos hc]

/-- DECODE past both tests: the packet by its type (R156). -/
theorem decodeBytes_good {c : Config} {b : List Byte} (h : 5 ≤ b.length)
    (hc : checksumOf c b = read16 b (b.length - 2)) : decodeBytes c b = packetOf b := by
  unfold decodeBytes; rw [if_neg (by omega), if_neg (fun k => k hc)]

/-- A buffer that carries its own checksum passes DECODE's tests. -/
theorem decodeBytes_withChecksum (c : Config) (b : List Byte) (h : 5 ≤ b.length) :
    decodeBytes c (withChecksum c b) = packetOf (withChecksum c b) := by
  apply decodeBytes_good (by simpa using h)
  rw [read16_withChecksum c b (by omega), checksumOf_withChecksum]

/-- A buffer that decodes carries its checksum. -/
theorem decodeBytes_ok {c : Config} {b : List Byte} {p : Packet} (h : decodeBytes c b = .ok p) :
    5 ≤ b.length ∧ checksumOf c b = read16 b (b.length - 2) ∧ packetOf b = .ok p := by
  unfold decodeBytes at h
  split at h
  · cases h
  · split at h
    · cases h
    · rename_i h1 h2; exact ⟨by omega, Classical.not_not.mp h2, h⟩

end Sys2Proof.Machine
end

