-- ==== Sys2Proof/Laws/Ppm.lean ====
section
/-! SUPPORT. Everything an edge, a rollover and a tick can do, said once: one case per row of 41_ppm_decoder.md R133. -/

namespace Sys2Proof.Machine

/-- The ways an EDGE at `t`, `w` ticks after the last one, can end (R133), each with its whole next state. -/
inductive EdgeCase (s : State) (t w : Nat) : State → Prop
  | sync (h : s.cfg.syncThreshold < w) :
    EdgeCase s t w { s with
      ppm := { s.ppm with lastEdge := t, channelIndex := 0, state := .gap }
      out := ⟨if s.ppm.state = .waiting then .done else .syncDiscard, .none, []⟩ }
  | waiting (h : w ≤ s.cfg.syncThreshold) (hs : s.ppm.state = .waiting) :
    EdgeCase s t w { s with ppm := { s.ppm with lastEdge := t }, out := Report.fresh }
  | gapShort (h : w ≤ s.cfg.syncThreshold) (hs : s.ppm.state = .gap) (hw : w < s.cfg.minGap) :
    EdgeCase s t w { s with
      ppm := { s.ppm with lastEdge := t, state := .waiting }
      out := ⟨.frameAbort .gapTooShort, .none, []⟩ }
  | gap (h : w ≤ s.cfg.syncThreshold) (hs : s.ppm.state = .gap) (hw : s.cfg.minGap ≤ w) :
    EdgeCase s t w { s with
      ppm := { s.ppm with
        lastEdge := t
        state := .pulse
        gapWidth := if s.cfg.widthMode = .gapPlusPulse then BitVec.ofNat 32 w else s.ppm.gapWidth }
      out := Report.fresh }
  | pulseShort (h : w ≤ s.cfg.syncThreshold) (hs : s.ppm.state = .pulse) (hw : w < s.cfg.minPulse) :
    EdgeCase s t w { s with
      ppm := { s.ppm with lastEdge := t, state := .waiting }
      out := ⟨.frameAbort .pulseTooShort, .none, []⟩ }
  | overflow (h : w ≤ s.cfg.syncThreshold) (hs : s.ppm.state = .pulse) (hw : s.cfg.minPulse ≤ w)
      (hv : 65535 < channelValue s.cfg s.ppm.gapWidth w) :
    EdgeCase s t w { s with
      ppm := { s.ppm with lastEdge := t, state := .waiting }
      out := ⟨.frameAbort .valueOverflow, .none, []⟩ }
  | store (h : w ≤ s.cfg.syncThreshold) (hs : s.ppm.state = .pulse) (hw : s.cfg.minPulse ≤ w)
      (hv : channelValue s.cfg s.ppm.gapWidth w ≤ 65535) (hi : s.ppm.channelIndex + 1 < numChannels) :
    EdgeCase s t w { s with
      ppm := { s.ppm with
        lastEdge := t
        state := .gap
        channelIndex := s.ppm.channelIndex + 1
        chan := s.ppm.chan.setIfInBounds s.ppm.channelIndex (BitVec.ofNat 16 (channelValue s.cfg s.ppm.gapWidth w)) }
      out := Report.fresh }
  | publish (h : w ≤ s.cfg.syncThreshold) (hs : s.ppm.state = .pulse) (hw : s.cfg.minPulse ≤ w)
      (hv : channelValue s.cfg s.ppm.gapWidth w ≤ 65535) (hi : numChannels ≤ s.ppm.channelIndex + 1) :
    EdgeCase s t w { s with
      ppm := { s.ppm with
        lastEdge := t
        state := .waiting
        channelIndex := s.ppm.channelIndex + 1
        chan := s.ppm.chan.setIfInBounds s.ppm.channelIndex (BitVec.ofNat 16 (channelValue s.cfg s.ppm.gapWidth w)) }
      slot := ⟨s.ppm.chan.setIfInBounds s.ppm.channelIndex (BitVec.ofNat 16 (channelValue s.cfg s.ppm.gapWidth w)), true⟩
      out := Report.fresh }

/-- The sync pulse's effect (R122). -/
theorem ppmSync_eq (s : State) : ppmSync s = { s with
    ppm := { s.ppm with channelIndex := 0, state := .gap }
    out := { s.out with outcome := if s.ppm.state = .waiting then s.out.outcome else .syncDiscard } } := by
  obtain ⟨_, _, ⟨st, _, _, _, _⟩, _, _, _, _, _, _⟩ := s
  cases st <;> rfl

/-- An edge ends in one of those ways. -/
theorem ppmEdge_cases (t : Nat) (s : State) :
    EdgeCase s t (elapsed s.cfg.modulus t s.ppm.lastEdge) (ppmEdge t s.beginOp) := by
  generalize hw : elapsed s.cfg.modulus t s.ppm.lastEdge = w
  have hw' : elapsed s.beginOp.cfg.modulus t s.beginOp.ppm.lastEdge = w := hw
  have hbody : ppmEdge t s.beginOp = (if isSync s.cfg w then ppmSync (s.beginOp.setPpm { s.ppm with lastEdge := t })
      else match s.ppm.state with
        | .waiting => s.beginOp.setPpm { s.ppm with lastEdge := t }
        | .gap => ppmGap w (s.beginOp.setPpm { s.ppm with lastEdge := t })
        | .pulse => ppmPulse w (s.beginOp.setPpm { s.ppm with lastEdge := t })) := by
    unfold ppmEdge; dsimp only; rw [hw']; rfl
  rw [hbody]
  split
  · rename_i h
    rw [ppmSync_eq]; exact .sync (isSync_iff.mp h)
  rename_i h
  have hle : w ≤ s.cfg.syncThreshold := Nat.not_lt.mp fun k => h (isSync_iff.mpr k)
  split
  · rename_i hs; exact .waiting hle hs
  · rename_i hs
    rw [ppmGap]
    dsimp only
    split
    · rename_i hg; exact .gapShort hle hs (gapTooShort_iff.mp hg)
    rename_i hg
    have := EdgeCase.gap (t := t) hle hs (Nat.not_lt.mp fun k => hg (gapTooShort_iff.mpr k))
    revert this
    simp only [State.setPpm_cfg, State.beginOp_cfg]
    cases hm : s.cfg.widthMode <;> exact id
  · rename_i hs
    rw [ppmPulse]
    dsimp only
    split
    · rename_i hg; exact .pulseShort hle hs (pulseTooShort_iff.mp hg)
    rename_i hg
    have hg' : s.cfg.minPulse ≤ w := Nat.not_lt.mp fun k => hg (pulseTooShort_iff.mpr k)
    split
    · rename_i hv; exact .overflow hle hs hg' (valueOverflows_iff.mp hv)
    rename_i hv
    have hv' : channelValue s.cfg s.ppm.gapWidth w ≤ 65535 := Nat.not_lt.mp fun k => hv (valueOverflows_iff.mpr k)
    split
    · rename_i hi; exact .store hle hs hg' hv' hi
    · rename_i hi; exact .publish hle hs hg' hv' (Nat.not_lt.mp hi)

/-- The rollover effect (R129). -/
theorem ppmRollover_eq (s : State) : ppmRollover s = { s with
    ppm := { s.ppm with state := .waiting }
    out := { s.out with outcome := if s.ppm.state = .waiting then s.out.outcome else .frameAbort .rollover } } := by
  obtain ⟨_, _, ⟨st, _, _, _, _⟩, _, _, _, _, _, _⟩ := s
  cases st <;> rfl

/-- A tick (R106): the count, and the rollover effect exactly when the count becomes 0. -/
theorem execTick_eq (s : State) : execTick s = .next (if (s.clk.count + 1) % s.cfg.modulus = 0 then
    { s with
      clk := ⟨0⟩
      ppm := { s.ppm with state := .waiting }
      out := ⟨if s.ppm.state = .waiting then .done else .frameAbort .rollover, .none, []⟩ }
    else { s with clk := ⟨(s.clk.count + 1) % s.cfg.modulus⟩, out := Report.fresh }) := by
  unfold execTick
  by_cases h : (s.clk.count + 1) % s.cfg.modulus = 0
  · simp only [h, if_true, ppmRollover_eq]; rfl
  · simp only [h, if_false]; rfl

end Sys2Proof.Machine
end

