-- ==== Sys2Proof/Laws/Exec.lean ====
section
/-! SUPPORT. Everything an instruction can do when it completes, said once: one constructor per way to end, each with its whole next
state. Later proofs take an `exec i s = .next t` apart with it and unfold no meaning. -/

namespace Sys2Proof.Machine

/-- The report of DECODE's result (R15, R156). -/
def decodeReport (r : DecodeResult) : Report :=
  ⟨match r with | .ok _ => .done | .corrupt cause => .corrupt cause, .decoded r, []⟩

/-- The framer applied to a buffer writes the report and nothing else (R150). -/
theorem receive_eq (b : List Byte) (s : State) : receive b s = { s with out := decodeReport (decodeBytes s.cfg b) } := by
  unfold receive reportDecode
  cases decodeBytes s.cfg b <;> rfl

/-- The ways an instruction can complete. -/
inductive ExecCase (s : State) : Instr → State → Prop
  | reset : ExecCase s .reset { State.resetWith s.cfg with inbox := s.inbox }
  | tick (h : (s.clk.count + 1) % s.cfg.modulus ≠ 0) :
    ExecCase s .tick { s with clk := ⟨(s.clk.count + 1) % s.cfg.modulus⟩, out := Report.fresh }
  | tickWrap (h : (s.clk.count + 1) % s.cfg.modulus = 0) :
    ExecCase s .tick { s with
      clk := ⟨0⟩
      ppm := { s.ppm with state := .waiting }
      out := ⟨if s.ppm.state = .waiting then .done else .frameAbort .rollover, .none, []⟩ }
  | rollover :
    ExecCase s .rollover { s with
      ppm := { s.ppm with state := .waiting }
      out := ⟨if s.ppm.state = .waiting then .done else .frameAbort .rollover, .none, []⟩ }
  | edge {t : U32} {u : State} (hm : t.toNat < s.cfg.modulus)
      (h : EdgeCase s t.toNat (elapsed s.cfg.modulus t.toNat s.ppm.lastEdge) u) : ExecCase s (.edge t) u
  | take (h : s.slot.full = true) :
    ExecCase s .take { s with
      slot := { s.slot with full := false }
      out := ⟨.done, .frame (some s.slot.frame), []⟩ }
  | takeEmpty (h : s.slot.full = false) : ExecCase s .take { s with out := ⟨.empty, .frame none, []⟩ }
  | now : ExecCase s .now { s with out := ⟨.done, .u32 (BitVec.ofNat 32 s.clk.count), []⟩ }
  | elapsed {since : U32} (h : since.toNat < s.cfg.modulus) :
    ExecCase s (.elapsed since) { s with
      out := ⟨.done, .u32 (BitVec.ofNat 32 (elapsed s.cfg.modulus s.clk.count since.toNat)), []⟩ }
  | encBeacon {seq : U16} {f : Byte} (h : reservedClear f = true) :
    ExecCase s (.encBeacon seq f) { s with out := ⟨.done, .bytes (beaconBytes s.cfg seq f), []⟩ }
  | encControl {seq : U16} {p : ControlPayload} :
    ExecCase s (.encControl seq p) { s with out := ⟨.done, .bytes (controlFrame s.cfg seq p), []⟩ }
  | encTelemetry {seq : U16} {p : TelemetryPayload} :
    ExecCase s (.encTelemetry seq p) { s with out := ⟨.done, .bytes (telemetryFrame s.cfg seq p), []⟩ }
  | decode {b : List Byte} : ExecCase s (.decode b) { s with out := decodeReport (decodeBytes s.cfg b) }
  | pairStart {mac : Mac} (h : s.pair.state = .idle) (hm : mac ≠ broadcast) :
    ExecCase s (.pairStart true mac) { s with
      peer := ⟨mac, true⟩, pair := ⟨.waiting, true⟩, out := ⟨.done, .none, [.addPeer mac]⟩ }
  | pairStartAbsent (h : s.pair.state = .idle) :
    ExecCase s (.pairStart false zeroMac) { s with
      peer := ⟨broadcast, false⟩, pair := ⟨.waiting, true⟩, out := ⟨.done, .none, [.addPeer broadcast]⟩ }
  | pairStartIgnored {present : Bool} {mac : Mac} (h : s.pair.state ≠ .idle)
      (hw : (Instr.pairStart present mac).wf = true) :
    ExecCase s (.pairStart present mac) { s with out := ⟨.ignored, .none, [.log]⟩ }
  | pairTimeout (h : s.pair.state = .waiting) (ht : s.pair.timerArmed = true) :
    ExecCase s .pairTimeout { s with pair := ⟨.binding, false⟩, out := ⟨.done, .none, [.indicateNoPartner]⟩ }
  | pairTimeoutIgnored (h : ¬ (s.pair.state = .waiting ∧ s.pair.timerArmed = true)) :
    ExecCase s .pairTimeout { s with out := ⟨.ignored, .none, [.log]⟩ }
  | fastPath {src : Mac} {f : Byte} (h : s.pair.state = .waiting) (hb : s.peer.bound = true) (hs : src = s.peer.mac)
      (hf : bindBit f = false) :
    ExecCase s (.pairBeacon src f) { s with pair := ⟨.bound, false⟩, out := Report.fresh }
  | bind {src : Mac} {f : Byte} (h : s.pair.state = .binding) (hf : bindBit f = true) (hs : src ≠ broadcast) :
    ExecCase s (.pairBeacon src f) { s with
      peer := ⟨src, true⟩
      pair := ⟨.bound, false⟩
      out := ⟨.done, .none, [.persist src, .addPeer src, .sendBeacon src (ownFlag s.cfg.role ||| 0x80#8)]⟩ }
  | pairBeaconIgnored {src : Mac} {f : Byte}
      (hw : ¬ (s.pair.state = .waiting ∧ s.peer.bound = true ∧ src = s.peer.mac ∧ bindBit f = false))
      (hb : ¬ (s.pair.state = .binding ∧ bindBit f = true ∧ src ≠ broadcast)) :
    ExecCase s (.pairBeacon src f) { s with out := ⟨.ignored, .none, [.log]⟩ }
  | pairCancel (h : s.pair.state = .binding) :
    ExecCase s .pairCancel { s with pair := { s.pair with state := .cancelled }, out := Report.fresh }
  | pairCancelIgnored (h : s.pair.state ≠ .binding) :
    ExecCase s .pairCancel { s with out := ⟨.ignored, .none, [.log]⟩ }
  | pairAccept {src : Mac} :
    ExecCase s (.pairAccept src) { s with out := ⟨.done, .bit (s.peer.bound && src == s.peer.mac), []⟩ }
  | observe {seq : U16} : ExecCase s (.observe seq) { s with health := observeSeq seq s.health, out := Report.fresh }
  | healthRead :
    ExecCase s .healthRead { s with
      out := ⟨.done, .health (packetCount s.health) s.health.dropped s.health.outOfOrder, []⟩ }
  | beacon {seq : U16} {f : Byte} {c : U16} :
    ExecCase s (.beacon seq f c) { s with out := decodeReport (decodeBytes s.cfg (beaconPacket seq f c)) }
  | control {seq : U16} {p : ControlPayload} {c : U16} :
    ExecCase s (.control seq p c) { s with out := decodeReport (decodeBytes s.cfg (controlPacket seq p c)) }
  | telemetry {seq : U16} {p : TelemetryPayload} {c : U16} :
    ExecCase s (.telemetry seq p c) { s with out := decodeReport (decodeBytes s.cfg (telemetryPacket seq p c)) }

/-- An instruction that completes did so in one of those ways. -/
theorem exec_cases {i : Instr} {s t : State} (h : exec i s = .next t) : ExecCase s i t := by
  cases i with
  | reset => injection h with h; subst h; exact .reset
  | tick =>
    simp only [exec, execTick_eq] at h
    injection h with h; subst h
    split
    · rename_i hz; exact .tickWrap hz
    · rename_i hz; exact .tick hz
  | rollover => simp only [exec, execRollover, ppmRollover_eq] at h; injection h with h; subst h; exact .rollover
  | edge t =>
    simp only [exec, execEdge] at h
    split at h
    · rename_i hm; injection h with h; exact .edge hm (h ▸ ppmEdge_cases t.toNat s)
    · cases h
  | take =>
    simp only [exec, execTake] at h
    split at h
    · rename_i hf; injection h with h; subst h; exact .take hf
    · rename_i hf; injection h with h; subst h; exact .takeEmpty (by simpa using hf)
  | now => injection h with h; subst h; exact .now
  | elapsed since =>
    simp only [exec, execElapsed] at h
    split at h
    · rename_i hm; injection h with h; subst h; exact .elapsed hm
    · cases h
  | encBeacon seq f =>
    simp only [exec, execEncBeacon] at h
    split at h
    · rename_i hf; injection h with h; subst h; exact .encBeacon hf
    · cases h
  | encControl seq p => injection h with h; subst h; exact .encControl
  | encTelemetry seq p => injection h with h; subst h; exact .encTelemetry
  | decode b => simp only [exec, execDecode, receive_eq] at h; injection h with h; subst h; exact .decode
  | pairStart present mac =>
    simp only [exec, execPairStart] at h
    split at h
    · cases h
    rename_i h1
    split at h
    · cases h
    rename_i h2
    have hw : (Instr.pairStart present mac).wf = true := by
      cases present
      · have e : mac = zeroMac := by simpa using h2
        subst e; rfl
      · have e : mac ≠ broadcast := by simpa using h1
        simp [Instr.wf, Instr.defect?, e]
    split at h
    · rename_i hi; injection h with h; subst h; exact .pairStartIgnored hi hw
    rename_i hi
    have hi : s.pair.state = .idle := by simpa using hi
    split at h
    · rename_i hp
      injection h with h; subst h; subst hp
      exact .pairStart hi (by simpa using h1)
    · rename_i hp
      have hp : present = false := by simpa using hp
      subst hp
      have e : mac = zeroMac := by simpa using h2
      injection h with h; subst h; subst e
      exact .pairStartAbsent hi
  | pairTimeout =>
    simp only [exec, execPairTimeout] at h
    split at h
    · rename_i hc; injection h with h; subst h; exact .pairTimeout hc.1 hc.2
    · rename_i hc; injection h with h; subst h; exact .pairTimeoutIgnored hc
  | pairBeacon src f =>
    simp only [exec, execPairBeacon] at h
    split at h
    · rename_i hs
      split at h
      · rename_i hc; injection h with h; subst h; exact .fastPath hs hc.1 hc.2.1 hc.2.2
      · rename_i hc; injection h with h; subst h
        exact .pairBeaconIgnored (fun k => hc k.2) (fun k => by rw [hs] at k; cases k.1)
    · rename_i hs
      split at h
      · rename_i hc; injection h with h; subst h; exact .bind hs hc.1 hc.2
      · rename_i hc; injection h with h; subst h
        exact .pairBeaconIgnored (fun k => by rw [hs] at k; cases k.1) (fun k => hc k.2)
    all_goals
      rename_i hs; injection h with h; subst h
      exact .pairBeaconIgnored (fun k => by rw [hs] at k; cases k.1) (fun k => by rw [hs] at k; cases k.1)
  | pairCancel =>
    simp only [exec, execPairCancel] at h
    split at h
    · rename_i hc; injection h with h; subst h; exact .pairCancel hc
    · rename_i hc; injection h with h; subst h; exact .pairCancelIgnored hc
  | pairAccept src => injection h with h; subst h; exact .pairAccept
  | observe seq => injection h with h; subst h; exact .observe
  | healthRead => injection h with h; subst h; exact .healthRead
  | beacon seq f c => simp only [exec, execBeacon, receive_eq] at h; injection h with h; subst h; exact .beacon
  | control seq p c => simp only [exec, execControl, receive_eq] at h; injection h with h; subst h; exact .control
  | telemetry seq p c => simp only [exec, execTelemetry, receive_eq] at h; injection h with h; subst h; exact .telemetry

/-- An edge ends in one way only. -/
theorem EdgeCase.unique {s : State} {t w : Nat} {u v : State} (h1 : EdgeCase s t w u) (h2 : EdgeCase s t w v) : u = v := by
  cases h1 <;> cases h2 <;> first | rfl | (exfalso; first | omega | simp_all)

/-- The converse of `exec_cases`: each of those ways is what `exec` answers. -/
theorem exec_of_case {i : Instr} {s t : State} (h : ExecCase s i t) : exec i s = .next t := by
  cases h with
  | tick h => simp only [exec, execTick_eq, if_neg h]
  | tickWrap h => simp only [exec, execTick_eq, if_pos h]
  | rollover => simp only [exec, execRollover, ppmRollover_eq]; rfl
  | edge hm h => simp only [exec, execEdge, if_pos hm, (ppmEdge_cases _ s).unique h]
  | take h => simp only [exec, execTake, h]; rfl
  | takeEmpty h => simp only [exec, execTake, h]; rfl
  | elapsed h => simp only [exec, execElapsed, if_pos h]; rfl
  | encBeacon h => simp only [exec, execEncBeacon, h]; rfl
  | decode => simp only [exec, execDecode, receive_eq]
  | beacon => simp only [exec, execBeacon, receive_eq]
  | control => simp only [exec, execControl, receive_eq]
  | telemetry => simp only [exec, execTelemetry, receive_eq]
  | pairStart h hm => simp [exec, execPairStart, h, hm]; rfl
  | pairStartAbsent h => simp [exec, execPairStart, h]; rfl
  | @pairStartIgnored p m h hw =>
    cases p
    · have : m = zeroMac := by
        by_cases k : m = zeroMac
        · exact k
        · simp [Instr.wf, Instr.defect?, k] at hw
      subst this; simp [exec, execPairStart, h]; rfl
    · have : m ≠ broadcast := fun k => by simp [Instr.wf, Instr.defect?, k] at hw
      simp [exec, execPairStart, h, this]; rfl
  | pairTimeout h ht => simp only [exec, execPairTimeout]; rw [if_pos ⟨h, ht⟩]; rfl
  | pairTimeoutIgnored h => simp only [exec, execPairTimeout]; rw [if_neg h]; rfl
  | fastPath h hb hs hf => simp only [exec, execPairBeacon, h]; rw [if_pos ⟨hb, hs, hf⟩]; rfl
  | bind h hf hs => simp only [exec, execPairBeacon, h]; rw [if_pos ⟨hf, hs⟩]; rfl
  | pairBeaconIgnored hw hb =>
    simp only [exec, execPairBeacon]
    split
    · rename_i h; rw [if_neg fun k => hw ⟨h, k⟩]; rfl
    · rename_i h; rw [if_neg fun k => hb ⟨h, k⟩]; rfl
    all_goals rfl
  | pairCancel h => simp only [exec, execPairCancel, if_pos h]; rfl
  | pairCancelIgnored h => simp only [exec, execPairCancel, if_neg h]; rfl
  | _ => rfl

end Sys2Proof.Machine
end

