-- ==== Sys2Proof/Laws/Frames.lean ====
section
/-! SUPPORT. Runs of several operations, and what one gap edge and one pulse edge of a plausible channel do to a frame in progress
(41_ppm_decoder.md R134): the steps that an induction over the channels of a frame goes through. -/

namespace Sys2Proof.Machine

/-- A run in two parts. -/
theorem runInstrs_append (a b : List Instr) (s t : State) (h : runInstrs a s = .next t) :
    runInstrs (a ++ b) s = runInstrs b t := by
  induction a generalizing s with
  | nil => injection h with h; subst h; rfl
  | cons i a ih =>
    simp only [runInstrs, List.cons_append] at h ⊢
    cases hx : exec i s <;> simp only [hx] at h ⊢
    · exact ih _ h
    · cases h
    · cases h

/-- A clock value fits the u32 operand that carries it (R121). -/
theorem clockOperand_toNat {m c : Nat} (hm : m ≤ 4294967296) (h : c < m) : (BitVec.ofNat 32 c).toNat = c := by
  rw [BitVec.toNat_ofNat]; omega

/-- The edge that ends a plausible Gap (R124). -/
theorem exec_gapEdge (s : State) (last g p : Nat) (hw : s.cfg.wf) (hm : s.cfg.syncThreshold < s.cfg.modulus)
    (hs : s.ppm.state = .gap) (he : s.ppm.lastEdge = last) (hl : last < s.cfg.modulus) (hp : PlausiblePair s.cfg g p) :
    ∃ u, exec (edgeAt ((last + g) % s.cfg.modulus)) s = .next u ∧ u.cfg = s.cfg ∧ u.slot = s.slot ∧ u.ppm.state = .pulse ∧
      u.ppm.lastEdge = (last + g) % s.cfg.modulus ∧ u.ppm.channelIndex = s.ppm.channelIndex ∧ u.ppm.chan = s.ppm.chan ∧
      (s.cfg.widthMode = .gapPlusPulse → u.ppm.gapWidth.toNat = g) := by
  obtain ⟨w1, w2, w3, w4, w5⟩ := hw
  have hlt : (last + g) % s.cfg.modulus < s.cfg.modulus := Nat.mod_lt _ (by omega)
  have e := clockOperand_toNat w2 hlt
  have hel := elapsed_add_mod (d := g) hl (by have := hp.gapNoSync; omega)
  refine ⟨_, exec_of_case (.edge (by rw [e]; exact hlt) (.gap ?_ hs ?_)), rfl, rfl, rfl, e, rfl, rfl, ?_⟩
  · rw [e, he, hel]; exact hp.gapNoSync
  · rw [e, he, hel]; exact hp.gapLong
  · intro hg; dsimp only; rw [if_pos hg, e, he, hel, BitVec.toNat_ofNat]; have := hp.gapNoSync; omega

/-- The edge that ends a plausible Pulse (R125, R126). -/
theorem exec_pulseEdge (s : State) (last g p : Nat) (hw : s.cfg.wf) (hm : s.cfg.syncThreshold < s.cfg.modulus)
    (hs : s.ppm.state = .pulse) (he : s.ppm.lastEdge = last) (hl : last < s.cfg.modulus) (hp : PlausiblePair s.cfg g p)
    (hg : s.cfg.widthMode = .gapPlusPulse → s.ppm.gapWidth.toNat = g) (hi : s.ppm.channelIndex < numChannels) :
    ∃ u, exec (edgeAt ((last + p) % s.cfg.modulus)) s = .next u ∧ u.cfg = s.cfg ∧
      u.ppm.lastEdge = (last + p) % s.cfg.modulus ∧ u.ppm.channelIndex = s.ppm.channelIndex + 1 ∧
      u.ppm.chan = s.ppm.chan.set s.ppm.channelIndex (BitVec.ofNat 16 (pairValue s.cfg g p)) hi ∧
      (s.ppm.channelIndex + 1 < numChannels → u.ppm.state = .gap ∧ u.slot = s.slot) ∧
      (s.ppm.channelIndex + 1 = numChannels → u.ppm.state = .waiting ∧ u.slot = ⟨u.ppm.chan, true⟩) := by
  obtain ⟨w1, w2, w3, w4, w5⟩ := hw
  have hlt : (last + p) % s.cfg.modulus < s.cfg.modulus := Nat.mod_lt _ (by omega)
  have e := clockOperand_toNat w2 hlt
  have hel := elapsed_add_mod (d := p) hl (by have := hp.pulseNoSync; omega)
  have hv : channelValue s.cfg s.ppm.gapWidth p = pairValue s.cfg g p := by
    rw [channelValue_eq]; unfold pairValue
    cases hmode : s.cfg.widthMode
    · simp
    · simp [hg hmode]
  rw [← setIfInBounds_eq_set]
  rcases Nat.lt_or_ge (s.ppm.channelIndex + 1) numChannels with hi' | hi'
  · refine ⟨_, exec_of_case (.edge (by rw [e]; exact hlt) (.store ?_ hs ?_ ?_ hi')), rfl, e, rfl, ?_, fun _ => ⟨rfl, rfl⟩,
      fun h => absurd h (by omega)⟩
    · rw [e, he, hel]; exact hp.pulseNoSync
    · rw [e, he, hel]; exact hp.pulseLong
    · rw [e, he, hel, hv]; exact hp.value
    · dsimp only; rw [e, he, hel, hv]
  · refine ⟨_, exec_of_case (.edge (by rw [e]; exact hlt) (.publish ?_ hs ?_ ?_ hi')), rfl, e, rfl, ?_,
      fun h => absurd h (by omega), fun _ => ⟨rfl, rfl⟩⟩
    · rw [e, he, hel]; exact hp.pulseNoSync
    · rw [e, he, hel]; exact hp.pulseLong
    · rw [e, he, hel, hv]; exact hp.value
    · dsimp only; rw [e, he, hel, hv]

end Sys2Proof.Machine
end

