-- ==== Sys2Proof/Laws/PerInstr.lean ====
section
/-! SUPPORT. Per-instruction laws. EncodeShape: the encoding of an instruction starts with the number of its row and has the length
of its format or packet type (30_encoding.md R81, R86, R87). -/

namespace Sys2Proof.Laws

/-- An operation word starts with its opcode number and has its format's length (for DECODE, 2 and the buffer's length); a wire
packet starts with its type code and has L(type). -/
def EncodeShape.Statement (i : Instr) : Prop :=
  match encode i with
  | .operation w => ∃ o : Opcode, w.head? = some o.code ∧
      w.length = o.length + (match i with | .decode b => b.length | _ => 0)
  | .packet b => ∃ t : PacketType, b.head? = some t.code ∧ b.length = t.length

namespace EncodeShape

theorem reset : Statement .reset := ⟨.reset, rfl, rfl⟩
theorem tick : Statement .tick := ⟨.tick, rfl, rfl⟩
theorem rollover : Statement .rollover := ⟨.rollover, rfl, rfl⟩
theorem edge (t : U32) : Statement (.edge t) := ⟨.edge, rfl, rfl⟩
theorem take : Statement .take := ⟨.take, rfl, rfl⟩
theorem now : Statement .now := ⟨.now, rfl, rfl⟩
theorem elapsed (since : U32) : Statement (.elapsed since) := ⟨.elapsed, rfl, rfl⟩
theorem encBeacon (seq : U16) (roleFlags : Byte) : Statement (.encBeacon seq roleFlags) := ⟨.encBeacon, rfl, rfl⟩
theorem encControl (seq : U16) (payload : ControlPayload) : Statement (.encControl seq payload) := ⟨.encControl, rfl, rfl⟩
theorem encTelemetry (seq : U16) (payload : TelemetryPayload) : Statement (.encTelemetry seq payload) :=
  ⟨.encTelemetry, rfl, rfl⟩
theorem decode (bytes : List Byte) : Statement (.decode bytes) := by
  refine ⟨.decode, rfl, ?_⟩
  simp only [List.length_cons, Opcode.length]; omega
theorem pairStart (present : Bool) (mac : Mac) : Statement (.pairStart present mac) := by
  refine ⟨.pairStart, rfl, ?_⟩
  simp [Opcode.length]
theorem pairTimeout : Statement .pairTimeout := ⟨.pairTimeout, rfl, rfl⟩
theorem pairBeacon (src : Mac) (roleFlags : Byte) : Statement (.pairBeacon src roleFlags) := by
  refine ⟨.pairBeacon, rfl, ?_⟩
  simp [Opcode.length]
theorem pairCancel : Statement .pairCancel := ⟨.pairCancel, rfl, rfl⟩
theorem pairAccept (src : Mac) : Statement (.pairAccept src) := by
  refine ⟨.pairAccept, rfl, ?_⟩
  simp [Opcode.length]
theorem observe (seq : U16) : Statement (.observe seq) := ⟨.observe, rfl, rfl⟩
theorem healthRead : Statement .healthRead := ⟨.healthRead, rfl, rfl⟩
theorem beacon (seq : U16) (roleFlags : Byte) (checksum : U16) : Statement (.beacon seq roleFlags checksum) :=
  ⟨.beacon, rfl, rfl⟩
theorem control (seq : U16) (payload : ControlPayload) (checksum : U16) : Statement (.control seq payload checksum) :=
  ⟨.control, rfl, rfl⟩
theorem telemetry (seq : U16) (payload : TelemetryPayload) (checksum : U16) :
    Statement (.telemetry seq payload checksum) := ⟨.telemetry, rfl, rfl⟩

end EncodeShape

end Sys2Proof.Laws
end

