-- ==== Sys2Proof/Machine/Status.lean ====
section
/-! DEFINITION. The numbers by which traces and status views show enumerated state and outcomes (30_encoding.md R89,
60_exceptions.md R235; 92_eei_decisions.md D3). No operation reads a number. -/

namespace Sys2Proof.Machine

/-- `ppm.state`: 3 is unused (R89). -/
def PpmState.code : PpmState → Nat
  | .waiting => 0
  | .gap => 1
  | .pulse => 2

/-- `pair.state`: 5 to 7 are unused (R89). -/
def PairState.code : PairState → Nat
  | .idle => 0
  | .waiting => 1
  | .binding => 2
  | .bound => 3
  | .cancelled => 4

/-- WIDTH_MODE (R9, R89). -/
def widthModeCode : WidthMode → Nat
  | .pulseOnly => 0
  | .gapPlusPulse => 1

/-- ROLE (R89). -/
def roleCode : Role → Nat
  | .transmitter => 0
  | .receiver => 1

/-- The sub-causes of FrameAbort (R235). -/
def AbortCause.code : AbortCause → Nat
  | .gapTooShort => 1
  | .pulseTooShort => 2
  | .valueOverflow => 3
  | .rollover => 4

/-- The sub-causes of Corrupt (R235). -/
def CorruptCause.code : CorruptCause → Nat
  | .tooShort => 1
  | .badChecksum => 2
  | .unknownType => 3
  | .badLength => 4

/-- The outcome's code (R235). -/
def OpOutcome.code : OpOutcome → Nat
  | .done => 0
  | .frameAbort _ => 1
  | .syncDiscard => 2
  | .corrupt _ => 3
  | .ignored => 4
  | .empty => 5

/-- The outcome's sub-cause code, where it has one (R235). -/
def OpOutcome.subCode? : OpOutcome → Option Nat
  | .frameAbort cause => some cause.code
  | .corrupt cause => some cause.code
  | .done | .syncDiscard | .ignored | .empty => none

/-- The code of how a step ended: Refused is 255 (R235). -/
def outcomeCode? : Host.Outcome State Fault Refusal → Option Nat
  | .next s => some s.out.outcome.code
  | .fault _ => none
  | .refused (.illFormed _) => some 255
  | .refused _ => none

end Sys2Proof.Machine
end

