-- ==== Sys2Proof/Machine/Text.lean ====
section
/-! DEFINITION. The textual form of operations (30_encoding.md R90): one operation per line, a writer and a reader. The operand
names and the list brackets that R90 does not show are those of its examples and of 95_test_vectors.md (log 15). -/

namespace Sys2Proof.Machine

/-- A hexadecimal digit, in capitals as in R90's examples. -/
def hexDigit (n : Nat) : Char := "0123456789ABCDEF".toList.getD n '0'

/-- A byte as two hexadecimal digits. -/
def hexByte (b : Byte) : List Char := [hexDigit (b.toNat / 16), hexDigit (b.toNat % 16)]

/-- A number in decimal. -/
def decimal (n : Nat) : List Char := (toString n).toList

/-- Texts joined by a separator. -/
def joinText (sep : List Char) : List (List Char) → List Char
  | [] => []
  | [x] => x
  | x :: rest => x ++ sep ++ joinText sep rest

/-- Six hexadecimal bytes joined by ':'. -/
def macText (m : Mac) : List Char := joinText [':'] (m.toList.map hexByte)

/-- A list of u16 values in brackets. -/
def wordsText (l : List U16) : List Char := ['['] ++ joinText [','] (l.map fun v => decimal v.toNat) ++ [']']

/-- `role_flags` as `0x` and two digits. -/
def flagsText (f : Byte) : List Char := ['0', 'x'] ++ hexByte f

/-- The line of an operation; a wire packet has no line. -/
def textOf : Instr → Option (List Char)
  | .reset => some "RESET".toList
  | .tick => some "TICK".toList
  | .rollover => some "ROLLOVER".toList
  | .edge t => some ("EDGE t=".toList ++ decimal t.toNat)
  | .take => some "TAKE".toList
  | .now => some "NOW".toList
  | .elapsed since => some ("ELAPSED since=".toList ++ decimal since.toNat)
  | .encBeacon seq f => some ("ENC_BEACON seq=".toList ++ decimal seq.toNat ++ " flags=".toList ++ flagsText f)
  | .encControl seq p =>
    some ("ENC_CONTROL seq=".toList ++ decimal seq.toNat ++ " motors=".toList ++ wordsText p.motors.toList
      ++ " brakes=".toList ++ wordsText p.brakes.toList ++ " servos=".toList ++ wordsText p.servos.toList)
  | .encTelemetry seq p =>
    some ("ENC_TELEMETRY seq=".toList ++ decimal seq.toNat ++ " battery_voltage=".toList ++ decimal p.batteryVoltage.toNat
      ++ " packet_count=".toList ++ decimal p.packetCount.toNat ++ " packet_loss=".toList ++ decimal p.packetLoss.toNat
      ++ " sequence_errors=".toList ++ decimal p.sequenceErrors.toNat)
  | .decode b => some ("DECODE bytes=".toList ++ joinText [' '] (b.map hexByte))
  | .pairStart true mac => some ("PAIR_START present=1 mac=".toList ++ macText mac)
  | .pairStart false mac => some ("PAIR_START present=0 mac=".toList ++ macText mac)
  | .pairTimeout => some "PAIR_TIMEOUT".toList
  | .pairBeacon src f => some ("PAIR_BEACON src=".toList ++ macText src ++ " flags=".toList ++ flagsText f)
  | .pairCancel => some "PAIR_CANCEL".toList
  | .pairAccept src => some ("PAIR_ACCEPT src=".toList ++ macText src)
  | .observe seq => some ("OBSERVE seq=".toList ++ decimal seq.toNat)
  | .healthRead => some "HEALTH_READ".toList
  | .beacon _ _ _ | .control _ _ _ | .telemetry _ _ _ => none

/-- The pieces of a text between occurrences of a separator. -/
def splitText (sep : Char) : List Char → List (List Char)
  | [] => [[]]
  | c :: rest =>
    if c = sep then [] :: splitText sep rest
    else match splitText sep rest with
      | [] => [[c]]
      | w :: ws => (c :: w) :: ws

/-- The words of a line, its comment (from ';' on) left out. -/
def wordsOf (line : List Char) : List (List Char) :=
  (splitText ' ' (line.takeWhile fun c => c != ';')).filter fun w => w != []

/-- A digit in a base of at most 16. -/
def digit? (base : Nat) (c : Char) : Option Nat :=
  let n := c.toNat
  let v := if 48 ≤ n ∧ n ≤ 57 then n - 48 else if 65 ≤ n ∧ n ≤ 70 then n - 55 else if 97 ≤ n ∧ n ≤ 102 then n - 87 else base
  if v < base then some v else none

/-- Digits read onto the number read so far. -/
def digits? (base : Nat) : Nat → List Char → Option Nat
  | acc, [] => some acc
  | acc, c :: rest => (digit? base c).bind fun d => digits? base (acc * base + d) rest

/-- A value in decimal, or in hexadecimal after `0x`. -/
def number? : List Char → Option Nat
  | [] => none
  | '0' :: 'x' :: c :: rest => digits? 16 0 (c :: rest)
  | cs => digits? 10 0 cs

/-- A value that fits the operand's width. -/
def bits? (w : Nat) (cs : List Char) : Option (BitVec w) :=
  (number? cs).bind fun n => if n < 2 ^ w then some (BitVec.ofNat w n) else none

/-- A byte written as two hexadecimal digits. -/
def hexByte? : List Char → Option Byte
  | [a, b] => (digits? 16 0 [a, b]).map (BitVec.ofNat 8)
  | _ => none

/-- A peer address. -/
def mac? (cs : List Char) : Option Mac :=
  match (splitText ':' cs).mapM hexByte? with
  | some [a, b, c, d, e, f] => some #v[a, b, c, d, e, f]
  | _ => none

/-- A list of u16 values in brackets. -/
def words? : List Char → Option (List U16)
  | '[' :: rest =>
    if rest.getLast? = some ']' then (splitText ',' rest.dropLast).mapM (bits? 16) else none
  | _ => none

/-- What follows a text at the start of another. -/
def afterText : List Char → List Char → Option (List Char)
  | [], cs => some cs
  | _ :: _, [] => none
  | x :: xs, c :: cs => if x = c then afterText xs cs else none

/-- The value of a word `name=value`. -/
def operand (name : String) (w : List Char) : Option (List Char) := afterText (name.toList ++ ['=']) w

/-- The Control payload of three operand words. -/
def controlText? (m b s : List Char) : Option ControlPayload :=
  match (operand "motors" m).bind words?, (operand "brakes" b).bind words?, (operand "servos" s).bind words? with
  | some [m0, m1, m2], some [b0, b1, b2], some [s0, s1] => some ⟨#v[m0, m1, m2], #v[b0, b1, b2], #v[s0, s1]⟩
  | _, _, _ => none

/-- An operation without operands, by its mnemonic (R87). -/
def plainText? (m : List Char) : Option Instr :=
  if m = "RESET".toList then some .reset
  else if m = "TICK".toList then some .tick
  else if m = "ROLLOVER".toList then some .rollover
  else if m = "TAKE".toList then some .take
  else if m = "NOW".toList then some .now
  else if m = "PAIR_TIMEOUT".toList then some .pairTimeout
  else if m = "PAIR_CANCEL".toList then some .pairCancel
  else if m = "HEALTH_READ".toList then some .healthRead
  else none

/-- An operation with one operand. -/
def oneOperand? (m a : List Char) : Option Instr :=
  if m = "EDGE".toList then ((operand "t" a).bind (bits? 32)).map .edge
  else if m = "ELAPSED".toList then ((operand "since" a).bind (bits? 32)).map .elapsed
  else if m = "OBSERVE".toList then ((operand "seq" a).bind (bits? 16)).map .observe
  else if m = "PAIR_ACCEPT".toList then ((operand "src" a).bind mac?).map .pairAccept
  else if m = "PAIR_START".toList then
    if operand "present" a = some ['0'] then some (.pairStart false zeroMac) else none
  else none

/-- An operation with two operands. -/
def twoOperands? (m a b : List Char) : Option Instr :=
  if m = "ENC_BEACON".toList then
    ((operand "seq" a).bind (bits? 16)).bind fun seq => ((operand "flags" b).bind (bits? 8)).map (.encBeacon seq)
  else if m = "PAIR_BEACON".toList then
    ((operand "src" a).bind mac?).bind fun src => ((operand "flags" b).bind (bits? 8)).map (.pairBeacon src)
  else if m = "PAIR_START".toList then
    if operand "present" a = some ['0'] then ((operand "mac" b).bind mac?).map (.pairStart false)
    else if operand "present" a = some ['1'] then ((operand "mac" b).bind mac?).map (.pairStart true)
    else none
  else none

/-- ENC_CONTROL. -/
def fourOperands? (m a b c d : List Char) : Option Instr :=
  if m = "ENC_CONTROL".toList then
    ((operand "seq" a).bind (bits? 16)).bind fun seq => (controlText? b c d).map (.encControl seq)
  else none

/-- ENC_TELEMETRY. -/
def fiveOperands? (m a b c d e : List Char) : Option Instr :=
  if m = "ENC_TELEMETRY".toList then
    match (operand "seq" a).bind (bits? 16), (operand "battery_voltage" b).bind (bits? 16),
      (operand "packet_count" c).bind (bits? 16), (operand "packet_loss" d).bind (bits? 16),
      (operand "sequence_errors" e).bind (bits? 16) with
    | some seq, some v, some n, some l, some x => some (.encTelemetry seq ⟨v, n, l, x⟩)
    | _, _, _, _, _ => none
  else none

/-- DECODE, whose byte string runs over the words of the line. -/
def decodeText? (m : List Char) (args : List (List Char)) : Option Instr :=
  if m = "DECODE".toList then
    match args with
    | [] => none
    | a :: rest =>
      match operand "bytes" a with
      | none => none
      | some [] => (rest.mapM hexByte?).map .decode
      | some (c :: cs) => (((c :: cs) :: rest).mapM hexByte?).map .decode
  else none

/-- The operation a line stands for; `none` for a line that is none (R90). Whether its operands are admissible is R88's matter. -/
def readText (line : List Char) : Option Instr :=
  match wordsOf line with
  | [] => none
  | m :: args =>
    match decodeText? m args with
    | some i => some i
    | none =>
      match args with
      | [] => plainText? m
      | [a] => oneOperand? m a
      | [a, b] => twoOperands? m a b
      | [a, b, c, d] => fourOperands? m a b c d
      | [a, b, c, d, e] => fiveOperands? m a b c d e
      | _ => none

end Sys2Proof.Machine
end

