-- ==== Sys2Proof/Tests/Slice0.lean ====
section
/-! SUPPORT. Tests: the smoke test of WellFormed, the decoding of every row by a word written out from the spec's encoding, single
steps against spec/95_test_vectors.md (V<n>), and for every statement with hypotheses a witness that meets them (wit_<name>), with
each clause at the boundary of its range. Expected values come from the spec, never from the model. -/

namespace Sys2Proof.Tests

open Sys2Proof Sys2Proof.Machine

/-! ### Helpers -/

/-- The address A of the vectors, 02:00:00:00:00:0A. -/
def macA : Mac := #v[0x02, 0x00, 0x00, 0x00, 0x00, 0x0A]

/-- The address B, 02:00:00:00:00:0B. -/
def macB : Mac := #v[0x02, 0x00, 0x00, 0x00, 0x00, 0x0B]

/-- CFG-A of the vectors, with ROLE = Receiver. -/
def cfgA : Config := ⟨4294967296, 8000, .pulseOnly, 100, 0, 0x8408#16, 0x0000#16, .receiver⟩

/-- CFG-B: CFG-A with MODULUS = 65536 and GAP_PLUS_PULSE. -/
def cfgB : Config := ⟨65536, 8000, .gapPlusPulse, 100, 0, 0x8408#16, 0x0000#16, .receiver⟩

/-- CFG-C: CFG-A with MODULUS = 65536. -/
def cfgC : Config := ⟨65536, 8000, .pulseOnly, 100, 0, 0x8408#16, 0x0000#16, .receiver⟩

/-- CFG-A with MIN_PULSE = 500 (V24, V25). -/
def cfgP : Config := ⟨4294967296, 8000, .pulseOnly, 100, 500, 0x8408#16, 0x0000#16, .receiver⟩

/-- SYNC_THRESHOLD = 40000 and GAP_PLUS_PULSE (V30 to V32). -/
def cfgV : Config := ⟨4294967296, 40000, .gapPlusPulse, 100, 0, 0x8408#16, 0x0000#16, .receiver⟩

/-- CFG-C with a threshold at MODULUS - 1: no sync pulse exists (R268). -/
def cfgStuck : Config := ⟨65536, 65535, .pulseOnly, 100, 0, 0x8408#16, 0x0000#16, .receiver⟩

/-- A frame whose first elements are given and whose others are 0. -/
def frameOf (l : List U16) : ChannelFrame := Vector.ofFn fun i => l.getD i.val 0#16

/-- The decoder in `state/index/last_edge`, the way the vectors write it. -/
def dec (st : PpmState) (index last : Nat) : Ppm := ⟨st, last, index, 0#32, frameOf []⟩

/-- The reset state with a decoder state. -/
def atPpm (c : Config) (p : Ppm) : State := { State.resetWith c with ppm := p }

/-- The state after V30: in Pulse at 85000, the gap 35000 recorded. -/
def stV31 : State := atPpm cfgV { dec .pulse 0 85000 with gapWidth := 35000#32 }

/-- The width of R121 for an edge at `t`. -/
def edgeWidth (s : State) (t : U32) : Nat := elapsed s.cfg.modulus t.toNat s.ppm.lastEdge

/-- The value of R125 for an edge at `t`. -/
def storedValue (s : State) (t : U32) : Nat :=
  (if s.cfg.widthMode = .gapPlusPulse then s.ppm.gapWidth.toNat else 0) + edgeWidth s t

/-- The reset state with a pairing state. -/
def atPair (st : PairState) (mac : Mac) (bound timer : Bool) : State :=
  { State.resetWith cfgA with peer := ⟨mac, bound⟩, pair := ⟨st, timer⟩ }

/-- The reset state with link statistics. -/
def atHealth (h : Health) : State := { State.resetWith cfgA with health := h }

/-- The next state, if there is one. -/
def ran : Result → Option State
  | .next s => some s
  | .fault _ => none
  | .refused _ => none

/-- The refusal, if there is one. -/
def why : Result → Option Refusal
  | .next _ => none
  | .fault _ => none
  | .refused r => some r

/-- The instruction decoded, if there is one. -/
def read (x : Input) : Option Instr :=
  match decodeInput x with
  | .ok i => some i
  | .error _ => none

/-- The name by which an operation word is rejected, if it is. -/
def rejected (w : List Byte) : Option IllFormed :=
  match decodeOperation w with
  | .ok _ => none
  | .error r => some r

/-- The CONTROL payload whose eight values are 1500 (V44). -/
def all1500 : ControlPayload := ⟨#v[1500, 1500, 1500], #v[1500, 1500, 1500], #v[1500, 1500]⟩

/-- The bytes of V44. -/
def bytesV44 : List Byte :=
  [0x01, 0x01, 0x00, 0xDC, 0x05, 0xDC, 0x05, 0xDC, 0x05, 0xDC, 0x05, 0xDC, 0x05, 0xDC, 0x05, 0xDC, 0x05, 0xDC, 0x05, 0xE9, 0xD0]

/-- The bytes of V46. -/
def bytesV46 : List Byte := [0x02, 0x00, 0x01, 0xE8, 0x1C, 0xE8, 0x03, 0x03, 0x00, 0x01, 0x00, 0x82, 0x6A]

/-! ### WellFormed: an ill-formed term for each check, which the check refuses (R88) -/

theorem test_wf_reservedRoleFlags : (Instr.encBeacon 5#16 0x7D#8).defect? = some .reservedRoleFlags := by decide
theorem test_wf_absentMacNotZero : (Instr.pairStart false macA).defect? = some .absentMacNotZero := by decide
theorem test_wf_persistedMacBroadcast : (Instr.pairStart true broadcast).defect? = some .persistedMacBroadcast := by decide
theorem test_wf_lenMismatch : (Instr.decode (List.replicate 256 0#8)).wf = false := by decide +kernel
theorem test_wf_operandNotBelowModulus :
    (Instr.edge 65536#32).admissible cfgC = false ∧ (Instr.elapsed 65536#32).admissible cfgC = false ∧
      (Instr.edge 65535#32).admissible cfgC = true := by decide
theorem test_wf_accepts :
    (Instr.encBeacon 5#16 0x83#8).wf = true ∧ (Instr.pairStart false zeroMac).wf = true ∧
      (Instr.pairStart true macA).wf = true ∧ (Instr.decode (List.replicate 255 0#8)).wf = true := by decide +kernel

/-! ### Rejections of the decoder, by name (R88) -/

theorem test_reject_emptyWord : rejected [] = some .emptyWord := by decide
theorem test_reject_unassignedOpcode :
    rejected [0x07] = some .unassignedOpcode ∧ rejected [0x23, 0x00] = some .unassignedOpcode ∧
      rejected [0x42] = some .unassignedOpcode := by decide
theorem test_reject_wrongLength :
    rejected [0x01, 0x00] = some .wrongLength ∧ rejected [0x03, 0xE8, 0x03, 0x00] = some .wrongLength ∧
      rejected [0x28] = some .wrongLength := by decide
theorem test_reject_presentNotABit : rejected [0x30, 0x02, 0, 0, 0, 0, 0, 0] = some .presentNotABit := by decide
theorem test_reject_lenMismatch : rejected [0x28, 0x03, 0x00, 0x00] = some .lenMismatch := by decide
/-- V48. -/
theorem test_reject_V48 : rejected [0x20, 0x05, 0x00, 0x7D] = some .reservedRoleFlags := by decide
/-- V78. -/
theorem test_reject_V78 : rejected [0x30, 0x01, 0xFF, 0xFF, 0xFF, 0xFF, 0xFF, 0xFF] = some .persistedMacBroadcast := by decide

/-! ### Every row's decoding, by a word written out from R78 to R80, R86, R87 -/

theorem test_word_plain :
    read (.operation [0x00]) = some .reset ∧ read (.operation [0x01]) = some .tick ∧
      read (.operation [0x02]) = some .rollover ∧ read (.operation [0x04]) = some .take ∧
      read (.operation [0x05]) = some .now ∧ read (.operation [0x31]) = some .pairTimeout ∧
      read (.operation [0x33]) = some .pairCancel ∧ read (.operation [0x41]) = some .healthRead := by decide
/-- P5: 03 94 75 00 00 for t = 30100; every byte of the operand counts. -/
theorem test_word_edge :
    read (.operation [0x03, 0x94, 0x75, 0x00, 0x00]) = some (.edge 30100#32) ∧
      read (.operation [0x03, 0x04, 0x03, 0x02, 0x01]) = some (.edge 0x01020304#32) := by decide
/-- V14: 06 DC FF 00 00. -/
theorem test_word_elapsed : read (.operation [0x06, 0xDC, 0xFF, 0x00, 0x00]) = some (.elapsed 65500#32) := by decide
/-- V41. -/
theorem test_word_encBeacon : read (.operation [0x20, 0x34, 0x12, 0x82]) = some (.encBeacon 0x1234#16 0x82#8) := by decide
/-- V45: eight values, all different. -/
theorem test_word_encControl :
    read (.operation [0x21, 0xCD, 0xAB, 0xE8, 0x03, 0xDC, 0x05, 0xD0, 0x07, 0xF4, 0x01, 0xC4, 0x09, 0x00, 0x00, 0xFF, 0xFF,
      0x02, 0x01]) = some (.encControl 0xABCD#16 ⟨#v[1000, 1500, 2000], #v[500, 2500, 0], #v[65535, 0x0102]⟩) := by decide
/-- V46. -/
theorem test_word_encTelemetry :
    read (.operation [0x22, 0x00, 0x01, 0xE8, 0x1C, 0xE8, 0x03, 0x03, 0x00, 0x01, 0x00]) =
      some (.encTelemetry 0x0100#16 ⟨7400, 1000, 3, 1⟩) := by decide
/-- P4 step 5. -/
theorem test_word_decode :
    read (.operation [0x28, 0x06, 0x00, 0xFF, 0xFF, 0x81, 0xC8, 0x6E]) =
      some (.decode [0x00, 0xFF, 0xFF, 0x81, 0xC8, 0x6E]) := by decide
/-- V59, V60. -/
theorem test_word_pairStart :
    read (.operation [0x30, 0x00, 0x00, 0x00, 0x00, 0x00, 0x00, 0x00]) = some (.pairStart false zeroMac) ∧
      read (.operation [0x30, 0x01, 0x02, 0x00, 0x00, 0x00, 0x00, 0x0A]) = some (.pairStart true macA) := by decide
/-- V62. -/
theorem test_word_pairBeacon :
    read (.operation [0x32, 0x02, 0x00, 0x00, 0x00, 0x00, 0x0A, 0x01]) = some (.pairBeacon macA 0x01#8) := by decide
/-- V75. -/
theorem test_word_pairAccept :
    read (.operation [0x34, 0x02, 0x00, 0x00, 0x00, 0x00, 0x0A]) = some (.pairAccept macA) := by decide
/-- 40 07 00 is OBSERVE seq=7. -/
theorem test_word_observe : read (.operation [0x40, 0x07, 0x00]) = some (.observe 7#16) := by decide
/-- V41's packet. -/
theorem test_packet_beacon :
    read (.packet [0x00, 0x34, 0x12, 0x82, 0x32, 0xB2]) = some (.beacon 0x1234#16 0x82#8 0xB232#16) := by decide
/-- V45's packet. -/
theorem test_packet_control :
    read (.packet [0x01, 0xCD, 0xAB, 0xE8, 0x03, 0xDC, 0x05, 0xD0, 0x07, 0xF4, 0x01, 0xC4, 0x09, 0x00, 0x00, 0xFF, 0xFF, 0x02,
      0x01, 0xB3, 0x99]) =
      some (.control 0xABCD#16 ⟨#v[1000, 1500, 2000], #v[500, 2500, 0], #v[65535, 0x0102]⟩ 0x99B3#16) := by decide
/-- V46's packet. -/
theorem test_packet_telemetry :
    read (.packet bytesV46) = some (.telemetry 0x0100#16 ⟨7400, 1000, 3, 1⟩ 0x6A82#16) := by decide
/-- A packet cut short stays a buffer for DECODE (R158). -/
theorem test_packet_cut : read (.packet [0x00, 0x34, 0x12]) = some (.decode [0x00, 0x34, 0x12]) := by decide
/-- The table's rows, numbered as the table numbers them. -/
theorem test_table_rows :
    decodeTableWord 8 0x00 = some .reset ∧ decodeTableWord 40 0x00003A9803 = some (.edge 15000#32) ∧
      decodeTableWord 8 0x03 = some (.edge 0#32) ∧ decodeTableWord 48 0xB23282123400 = some (.beacon 0x1234#16 0x82#8 0xB232#16) ∧
      decodeTableWord 104 0x02 = some (.telemetry 0#16 ⟨0, 0, 0, 0⟩ 0#16) ∧ decodeTableWord 8 0x28 = some (.decode []) ∧
      decodeTableWord 8 0x07 = none := by decide +kernel
theorem test_withFetchWord : step (State.reset.withFetchWord 40 0x03E803) = exec (.edge 1000#32) State.reset := by rfl

/-! ### EdgeClock -/

/-- V3, V4, V5 (MODULUS 2^32). -/
theorem test_elapsed_u32 :
    elapsed 4294967296 3 5 = 4294967294 ∧ elapsed 4294967296 0 4294967295 = 1 ∧
      elapsed 4294967296 4294967295 0 = 4294967295 := by decide
/-- V6, V9, V10, V11. -/
theorem test_elapsed_small :
    elapsed 65536 100 65500 = 136 ∧ elapsed 65536 7 7 = 0 ∧ elapsed 65536 6 7 = 65535 ∧ elapsed 1000 10 20 = 990 := by decide
/-- V13, first two ticks. -/
theorem test_tick_V13 :
    (ran (exec .tick { atPpm cfgC (dec .pulse 4 60000) with clk := ⟨65534⟩ })).map (fun s => (s.clk.count, s.ppm, s.out.outcome))
      = some (65535, dec .pulse 4 60000, .done) ∧
    (ran (exec .tick { atPpm cfgC (dec .pulse 4 60000) with clk := ⟨65535⟩ })).map (fun s => (s.clk.count, s.ppm, s.out.outcome))
      = some (0, dec .waiting 4 60000, .frameAbort .rollover) := by decide
/-- V15: the wrap of a 32-bit count. -/
theorem test_tick_V15 :
    (ran (exec .tick { atPpm cfgA (dec .gap 0 4294967000) with clk := ⟨4294967295⟩ })).map (fun s => (s.clk.count, s.ppm))
      = some (0, dec .waiting 0 4294967000) := by decide
/-- V14. -/
theorem test_now_V14 :
    (ran (exec .now { State.resetWith cfgC with clk := ⟨100⟩ })).map (fun s => s.out.result) = some (.u32 100#32) := by decide
/-- V14: 136 across the wrap; 65536 is refused. -/
theorem test_elapsed_V14 :
    (ran (exec (.elapsed 65500#32) { State.resetWith cfgC with clk := ⟨100⟩ })).map (fun s => s.out.result) = some (.u32 136#32) ∧
      why (exec (.elapsed 65536#32) { State.resetWith cfgC with clk := ⟨100⟩ }) = some (.illFormed .operandNotBelowModulus) := by
  decide

/-! ### PPM decoder -/

/-- V31: gap 35000 and pulse 30535 are stored as 65535. -/
theorem test_edge_V31 :
    (ran (exec (.edge 115535#32) stV31)).map
      (fun s => (s.ppm.state, s.ppm.channelIndex, s.ppm.lastEdge, s.ppm.chan[0])) = some (.gap, 1, 115535, 65535#16) := by decide
/-- V28: publication. -/
theorem test_edge_V28 :
    (ran (exec (.edge 29200#32) (atPpm cfgA
      { dec .pulse 8 27400 with chan := frameOf [1000, 1100, 1200, 1300, 1400, 1500, 1600, 1700] }))).map
      (fun s => (s.ppm.state, s.ppm.channelIndex, s.ppm.lastEdge, s.slot)) =
        some (.waiting, 9, 29200, ⟨frameOf [1000, 1100, 1200, 1300, 1400, 1500, 1600, 1700, 1800], true⟩) := by decide
/-- V33, V34. -/
theorem test_rollover :
    (ran (exec .rollover (atPpm cfgA (dec .pulse 4 20000)))).map (fun s => (s.ppm, s.out.outcome))
      = some (dec .waiting 4 20000, .frameAbort .rollover) ∧
    (ran (exec .rollover (atPpm cfgA (dec .waiting 9 20000)))).map (fun s => (s.ppm, s.out.outcome))
      = some (dec .waiting 9 20000, .done) := by decide
/-- V36, V35. -/
theorem test_take :
    (ran (exec .take { State.reset with slot := ⟨Vector.replicate 9 1500#16, true⟩ })).map (fun s => (s.slot, s.out.result))
      = some (⟨Vector.replicate 9 1500#16, false⟩, .frame (some (Vector.replicate 9 1500#16))) ∧
    (ran (exec .take State.reset)).map (fun s => s.out) = some ⟨.empty, .frame none, []⟩ := by decide
/-- R265's example. -/
theorem test_reset :
    (ran (exec .reset { atPair .bound macA true false with slot := ⟨frameOf [7], true⟩ })).map
      (fun s => (s.ppm.state, s.slot.full, s.pair.state, s.peer, s.health.firstSeq))
        = some (.waiting, false, .idle, ⟨broadcast, false⟩, none) := by decide

/-! ### Framer (CRC_POLY_REFL = 0x8408 unless said otherwise) -/

/-- The check input "123456789": 0x6F91, and with 0xA001 0x4B37. -/
theorem test_crc16_check :
    crc16 cfgA [0x31, 0x32, 0x33, 0x34, 0x35, 0x36, 0x37, 0x38, 0x39] = 0x6F91#16 ∧
      crc16 { cfgA with crcPolyRefl := 0xA001#16 } [0x31, 0x32, 0x33, 0x34, 0x35, 0x36, 0x37, 0x38, 0x39] = 0x4B37#16 ∧
      crc16 { cfgA with crcXorout := 0xFFFF#16 } [0x31, 0x32, 0x33, 0x34, 0x35, 0x36, 0x37, 0x38, 0x39] = 0x906E#16 := by
  decide +kernel
/-- R151's other values; C3's two readings differ. -/
theorem test_crc16_small :
    crc16 cfgA [] = 0xFFFF#16 ∧ crc16 cfgA [0x00] = 0x0F87#16 ∧ crc16 cfgA [0xFF] = 0x00FF#16 ∧
      crc16 cfgA [0x00, 0x00, 0x00, 0x01] = 0x12A8#16 ∧ crc16 cfgA [0x00, 0x00, 0x00, 0x01, 0x00, 0x00] = 0x52AC#16 := by
  decide +kernel
/-- V40, V42. -/
theorem test_encBeacon :
    (ran (exec (.encBeacon 0#16 0x01#8) State.reset)).map (fun s => s.out.result)
      = some (.bytes [0x00, 0x00, 0x00, 0x01, 0xAC, 0x52]) ∧
    (ran (exec (.encBeacon 0xFFFF#16 0x81#8) State.reset)).map (fun s => s.out.result)
      = some (.bytes [0x00, 0xFF, 0xFF, 0x81, 0xC8, 0x6E]) := by decide +kernel
/-- V44. -/
theorem test_encControl_V44 :
    (ran (exec (.encControl 1#16 all1500) State.reset)).map (fun s => s.out.result) = some (.bytes bytesV44) := by decide +kernel
/-- V45: byte order and the order of the eight values. -/
theorem test_encControl_V45 :
    (ran (exec (.encControl 0xABCD#16 ⟨#v[1000, 1500, 2000], #v[500, 2500, 0], #v[65535, 0x0102]⟩) State.reset)).map
      (fun s => s.out.result) = some (.bytes [0x01, 0xCD, 0xAB, 0xE8, 0x03, 0xDC, 0x05, 0xD0, 0x07, 0xF4, 0x01, 0xC4, 0x09, 0x00,
        0x00, 0xFF, 0xFF, 0x02, 0x01, 0xB3, 0x99]) := by decide +kernel
/-- V46. -/
theorem test_encTelemetry :
    (ran (exec (.encTelemetry 0x0100#16 ⟨7400, 1000, 3, 1⟩) State.reset)).map (fun s => s.out.result) = some (.bytes bytesV46) := by
  decide +kernel
/-- V55: reserved bits are dropped. -/
theorem test_decode_V55 :
    decodeBytes cfgA [0x00, 0x05, 0x00, 0x7D, 0x83, 0x51] = .ok (.beacon 5#16 true false false) := by decide +kernel
/-- V50, V52, V53, V54, V56, V57. -/
theorem test_decode_corrupt :
    decodeBytes cfgA [0x01, 0x01, 0x00, 0xDD, 0x05, 0xDC, 0x05, 0xDC, 0x05, 0xDC, 0x05, 0xDC, 0x05, 0xDC, 0x05, 0xDC, 0x05, 0xDC,
      0x05, 0xE9, 0xD0] = .corrupt .badChecksum ∧
    decodeBytes cfgA [0x00, 0x00, 0x00, 0x01] = .corrupt .tooShort ∧
    decodeBytes cfgA [0x00, 0x00, 0x00, 0x88, 0x30] = .corrupt .badLength ∧
    decodeBytes cfgA [0x03, 0x00, 0x00, 0x01, 0xD1, 0x5E] = .corrupt .unknownType ∧
    decodeBytes cfgA [0x01, 0x01, 0x00, 0xDC, 0x05, 0xDC, 0x05, 0xDC, 0x05, 0xDC, 0x05, 0xDC, 0x05, 0xDC, 0x05, 0xDC, 0x05, 0xDC,
      0x0E, 0x2A] = .corrupt .badLength ∧
    decodeBytes cfgA [0x00, 0x00, 0x00, 0x01, 0xAC, 0x53] = .corrupt .badChecksum := by decide +kernel
/-- V49 for V44; V57 as an operation. -/
theorem test_decode_exec :
    (ran (exec (.decode bytesV44) State.reset)).map (fun s => s.out.result) = some (.decoded (.ok (.control 1#16 all1500))) ∧
    (ran (exec (.decode [0x00, 0x00, 0x00, 0x01, 0xAC, 0x53]) State.reset)).map (fun s => s.out)
      = some ⟨.corrupt .badChecksum, .decoded (.corrupt .badChecksum), []⟩ := by decide +kernel
/-- V41, V58 as received packets: the second was made with 0xA001. -/
theorem test_beacon :
    (ran (exec (.beacon 0x1234#16 0x82#8 0xB232#16) State.reset)).map (fun s => s.out.result)
      = some (.decoded (.ok (.beacon 0x1234#16 false true true))) ∧
    (ran (exec (.beacon 0#16 0x01#8 0xDB51#16) State.reset)).map (fun s => s.out.outcome)
      = some (.corrupt .badChecksum) := by decide +kernel
/-- V44 as a received packet. -/
theorem test_control :
    (ran (exec (.control 1#16 all1500 0xD0E9#16) State.reset)).map (fun s => s.out.result)
      = some (.decoded (.ok (.control 1#16 all1500))) := by decide +kernel
/-- V46 as a received packet. -/
theorem test_telemetry :
    (ran (exec (.telemetry 0x0100#16 ⟨7400, 1000, 3, 1⟩ 0x6A82#16) State.reset)).map (fun s => s.out.result)
      = some (.decoded (.ok (.telemetry 0x0100#16 ⟨7400, 1000, 3, 1⟩))) := by decide +kernel

/-! ### Pairing -/

/-- V60, V61. -/
theorem test_pairStart :
    ran (exec (.pairStart true macA) (atPair .idle broadcast false false))
      = some { atPair .waiting macA true true with out := ⟨.done, .none, [.addPeer macA]⟩ } ∧
    ran (exec (.pairStart false zeroMac) (atPair .waiting macA true true))
      = some { atPair .waiting macA true true with out := ⟨.ignored, .none, [.log]⟩ } := by decide
/-- V67, V68. -/
theorem test_pairTimeout :
    ran (exec .pairTimeout (atPair .waiting broadcast false true))
      = some { atPair .binding broadcast false false with out := ⟨.done, .none, [.indicateNoPartner]⟩ } ∧
    ran (exec .pairTimeout (atPair .binding broadcast false false))
      = some { atPair .binding broadcast false false with out := ⟨.ignored, .none, [.log]⟩ } := by decide
/-- V69: the actions in order, with RX and BIND. -/
theorem test_pairBeacon_V69 :
    ran (exec (.pairBeacon macA 0x81#8) (atPair .binding broadcast false false))
      = some { atPair .bound macA true false with
          out := ⟨.done, .none, [.persist macA, .addPeer macA, .sendBeacon macA 0x82#8]⟩ } := by decide
/-- V62, V63, V71. -/
theorem test_pairBeacon_others :
    (ran (exec (.pairBeacon macA 0x01#8) (atPair .waiting macA true true))).map (fun s => (s.pair, s.out.outcome))
      = some (⟨.bound, false⟩, .done) ∧
    (ran (exec (.pairBeacon macA 0x81#8) (atPair .waiting macA true true))).map (fun s => (s.pair, s.out.outcome))
      = some (⟨.waiting, true⟩, .ignored) ∧
    (ran (exec (.pairBeacon broadcast 0x81#8) (atPair .binding broadcast false false))).map (fun s => (s.pair, s.out.outcome))
      = some (⟨.binding, false⟩, .ignored) := by decide
/-- V72, V74. -/
theorem test_pairCancel :
    (ran (exec .pairCancel (atPair .binding broadcast false false))).map (fun s => (s.pair, s.out.outcome))
      = some (⟨.cancelled, false⟩, .done) ∧
    (ran (exec .pairCancel (atPair .waiting macA true true))).map (fun s => (s.pair, s.out.outcome))
      = some (⟨.waiting, true⟩, .ignored) := by decide
/-- V75, V76, V77. -/
theorem test_pairAccept :
    (ran (exec (.pairAccept macA) (atPair .waiting macA true true))).map (fun s => s.out.result) = some (.bit true) ∧
    (ran (exec (.pairAccept macB) (atPair .bound macA true false))).map (fun s => s.out.result) = some (.bit false) ∧
    (ran (exec (.pairAccept broadcast) (atPair .waiting broadcast false true))).map (fun s => s.out.result)
      = some (.bit false) := by decide

/-! ### Link health -/

/-- V84, V85: the two sides of half range. -/
theorem test_observe_half_range :
    (ran (exec (.observe 0x8063#16) (atHealth ⟨some 100, 100, 0, 0⟩))).map (fun s => s.health)
      = some ⟨some 100, 0x8063, 32766, 0⟩ ∧
    (ran (exec (.observe 0x8064#16) (atHealth ⟨some 100, 100, 0, 0⟩))).map (fun s => s.health)
      = some ⟨some 100, 100, 0, 1⟩ := by decide
/-- V87: saturation; V82: a gap across the wrap. -/
theorem test_observe_saturates :
    (ran (exec (.observe 10#16) (atHealth ⟨some 0, 0, 4294967290, 0⟩))).map (fun s => s.health.dropped) = some 4294967295#32 ∧
    (ran (exec (.observe 2#16) (atHealth ⟨some 0xFFFF, 0xFFFF, 0, 0⟩))).map (fun s => s.health)
      = some ⟨some 0xFFFF, 2, 2, 0⟩ := by decide
/-- S5's first stream at its end; V79. -/
theorem test_healthRead :
    (ran (exec .healthRead (atHealth ⟨some 1, 8, 3, 0⟩))).map (fun s => s.out.result) = some (.health 7 3 0) ∧
    (ran (exec .healthRead State.reset)).map (fun s => s.out.result) = some (.health 0 0 0) := by decide

/-! ### Status numbers and text (R89, R90, R235) -/

theorem test_status_numbers :
    PpmState.pulse.code = 2 ∧ PairState.cancelled.code = 4 ∧ (OpOutcome.frameAbort .valueOverflow).code = 1 ∧
      (OpOutcome.frameAbort .valueOverflow).subCode? = some 3 ∧ (OpOutcome.corrupt .badLength).subCode? = some 4 ∧
      OpOutcome.empty.code = 5 ∧ outcomeCode? (exec (.edge 65536#32) (State.resetWith cfgC)) = some 255 := by decide
/-- R90's examples, read. -/
theorem test_text_read :
    readText "EDGE t=13400".toList = some (.edge 13400#32) ∧
      readText "ENC_BEACON seq=0 flags=0x01".toList = some (.encBeacon 0#16 0x01#8) ∧
      readText "PAIR_BEACON src=02:00:00:00:00:0A flags=0x82".toList = some (.pairBeacon macA 0x82#8) ∧
      readText "DECODE bytes=00 00 00 01 AC 52".toList = some (.decode [0x00, 0x00, 0x00, 0x01, 0xAC, 0x52]) ∧
      readText "OBSERVE seq=7 ; the seventh".toList = some (.observe 7#16) ∧ readText "EDGE".toList = none := by decide +kernel
/-- R90's examples, written. -/
theorem test_text_written :
    textOf (.edge 13400#32) = some "EDGE t=13400".toList ∧
      textOf (.encBeacon 0#16 0x01#8) = some "ENC_BEACON seq=0 flags=0x01".toList ∧
      textOf (.pairBeacon macA 0x82#8) = some "PAIR_BEACON src=02:00:00:00:00:0A flags=0x82".toList ∧
      textOf (.decode [0x00, 0x00, 0x00, 0x01, 0xAC, 0x52]) = some "DECODE bytes=00 00 00 01 AC 52".toList := by decide +kernel

/-! ### Witnesses: a concrete state and operands that meet the hypotheses of each statement, clause by clause -/

theorem wit_TickCountsAndRollsOver_below :
    (State.resetWith cfgC).clk.count + 1 < cfgC.modulus ∧
      ({ State.resetWith cfgC with clk := ⟨65534⟩ } : State).clk.count + 1 < cfgC.modulus := by decide
theorem wit_TickCountsAndRollsOver_wrap :
    ({ State.resetWith cfgC with clk := ⟨65535⟩ } : State).clk.count + 1 = cfgC.modulus := by decide
theorem wit_NowReturnsTheCount : Inv State.reset :=
  ⟨by decide, by decide, by decide, by decide, by decide, by decide, by decide, by decide, by decide⟩
theorem wit_ElapsedIsTheForwardDistance : (0 < 2 ∧ 1 < 2) ∧ (7 < 65536 ∧ (7 : Nat) = 7) := by decide
theorem wit_WidthIsTheTrueTimeModuloModulus : 65535 < 65536 ∧ 131072 % 65536 = 0 := by decide
theorem wit_ElapsedReturnsTheDistance :
    ((65535#32).toNat < cfgC.modulus ∧ cfgC.modulus ≤ (65536#32).toNat) ∧ Inv (State.resetWith cfgC) :=
  ⟨by decide, ⟨by decide, by decide, by decide, by decide, by decide, by decide, by decide, by decide, by decide⟩⟩
theorem wit_EdgeSetsLastEdgeInEveryState : (65535#32).toNat < cfgC.modulus ∧ cfgC.modulus ≤ (65536#32).toNat := by decide
/-- V16 and V17 as first edges. -/
theorem wit_FirstEdgeAfterResetIsMeasuredFromZero :
    (8000#32).toNat < cfgA.modulus ∧ ¬ cfgA.syncThreshold < (8000#32).toNat ∧ cfgA.syncThreshold < (8001#32).toNat := by decide
/-- V17, V23, V27: 8001 is the smallest sync pulse, in every state. -/
theorem wit_EdgeAboveThresholdStartsAFrame :
    ((8001#32).toNat < cfgA.modulus ∧ cfgA.syncThreshold < edgeWidth (atPpm cfgA (dec .waiting 0 0)) 8001#32) ∧
    ((21001#32).toNat < cfgA.modulus ∧ cfgA.syncThreshold < edgeWidth (atPpm cfgA (dec .gap 2 13000)) 21001#32) ∧
    ((33800#32).toNat < cfgA.modulus ∧ cfgA.syncThreshold < edgeWidth (atPpm cfgA (dec .pulse 3 24800)) 33800#32) := by decide
/-- V16: 8000 is no sync pulse. -/
theorem wit_EdgeInWaitingOnlyMovesLastEdge :
    (8000#32).toNat < cfgA.modulus ∧ edgeWidth (atPpm cfgA (dec .waiting 0 0)) 8000#32 ≤ cfgA.syncThreshold ∧
      (atPpm cfgA (dec .waiting 0 0)).ppm.state = .waiting := by decide
/-- 99 is below MIN_GAP; V21: 100 = MIN_GAP is accepted; V22: 8000 = SYNC_THRESHOLD is an ordinary gap. -/
theorem wit_EdgeEndsAGap :
    (13099#32).toNat < cfgA.modulus ∧ (21000#32).toNat < cfgA.modulus ∧ (atPpm cfgA (dec .gap 0 13000)).ppm.state = .gap ∧
      (edgeWidth (atPpm cfgA (dec .gap 0 13000)) 13099#32 ≤ cfgA.syncThreshold ∧
        edgeWidth (atPpm cfgA (dec .gap 0 13000)) 13099#32 < cfgA.minGap) ∧
      (edgeWidth (atPpm cfgA (dec .gap 0 13000)) 13100#32 ≤ cfgA.syncThreshold ∧
        cfgA.minGap ≤ edgeWidth (atPpm cfgA (dec .gap 0 13000)) 13100#32) ∧
      (edgeWidth (atPpm cfgA (dec .gap 0 13000)) 21000#32 ≤ cfgA.syncThreshold ∧
        cfgA.minGap ≤ edgeWidth (atPpm cfgA (dec .gap 0 13000)) 21000#32) := by decide
/-- V25 (500 = MIN_PULSE) at index 7, the last that is no publication; V31's value 65535. -/
theorem wit_EdgeEndsAPulse_stores :
    ((atPpm cfgP (dec .pulse 7 13400)).ppm.channelIndex < 9 ∧ (13900#32).toNat < cfgP.modulus ∧
      edgeWidth (atPpm cfgP (dec .pulse 7 13400)) 13900#32 ≤ cfgP.syncThreshold ∧
      (atPpm cfgP (dec .pulse 7 13400)).ppm.state = .pulse ∧
      cfgP.minPulse ≤ edgeWidth (atPpm cfgP (dec .pulse 7 13400)) 13900#32 ∧
      500 = storedValue (atPpm cfgP (dec .pulse 7 13400)) 13900#32 ∧ 500 ≤ 65535 ∧
      (atPpm cfgP (dec .pulse 7 13400)).ppm.channelIndex + 1 < 9) ∧
    (stV31.ppm.channelIndex < 9 ∧ (115535#32).toNat < cfgV.modulus ∧ edgeWidth stV31 115535#32 ≤ cfgV.syncThreshold ∧
      stV31.ppm.state = .pulse ∧ cfgV.minPulse ≤ edgeWidth stV31 115535#32 ∧ 65535 = storedValue stV31 115535#32 ∧
      stV31.ppm.channelIndex + 1 < 9) := by decide
/-- V28: index 8. -/
theorem wit_EdgeEndsAPulse_publishes :
    (atPpm cfgA (dec .pulse 8 27400)).ppm.channelIndex < 9 ∧ (29200#32).toNat < cfgA.modulus ∧
      edgeWidth (atPpm cfgA (dec .pulse 8 27400)) 29200#32 ≤ cfgA.syncThreshold ∧
      (atPpm cfgA (dec .pulse 8 27400)).ppm.state = .pulse ∧
      cfgA.minPulse ≤ edgeWidth (atPpm cfgA (dec .pulse 8 27400)) 29200#32 ∧
      1800 = storedValue (atPpm cfgA (dec .pulse 8 27400)) 29200#32 ∧ 1800 ≤ 65535 ∧
      (atPpm cfgA (dec .pulse 8 27400)).ppm.channelIndex + 1 = 9 := by decide
/-- V24 (499) and V32 (65536). -/
theorem wit_EdgeEndsAPulse_aborts :
    ((13899#32).toNat < cfgP.modulus ∧ edgeWidth (atPpm cfgP (dec .pulse 0 13400)) 13899#32 ≤ cfgP.syncThreshold ∧
      (atPpm cfgP (dec .pulse 0 13400)).ppm.state = .pulse ∧ 499 = storedValue (atPpm cfgP (dec .pulse 0 13400)) 13899#32 ∧
      edgeWidth (atPpm cfgP (dec .pulse 0 13400)) 13899#32 < cfgP.minPulse) ∧
    ((115536#32).toNat < cfgV.modulus ∧ edgeWidth stV31 115536#32 ≤ cfgV.syncThreshold ∧ stV31.ppm.state = .pulse ∧
      65536 = storedValue stV31 115536#32 ∧ cfgV.minPulse ≤ edgeWidth stV31 115536#32) := by decide
/-- V20 aborts; V21 does not. -/
theorem wit_FrameAbortsExactlyWhenImplausible :
    (∃ u, exec (.edge 13050#32) (atPpm cfgA (dec .gap 0 13000)) = .next u ∧ u.out.outcome = .frameAbort .gapTooShort) ∧
      (∃ u, exec (.edge 13100#32) (atPpm cfgA (dec .gap 0 13000)) = .next u ∧ u.out.outcome = .done) :=
  ⟨⟨_, rfl, rfl⟩, ⟨_, rfl, rfl⟩⟩
theorem wit_TakeDeliversAndEmptiesTheSlot :
    ({ State.reset with slot := ⟨frameOf [7], true⟩ } : State).slot.full = true ∧ State.reset.slot.full = false := by decide
theorem wit_SlotChangesOnlyByPublicationTakeAndReset :
    ∃ t, exec .take { State.reset with slot := ⟨frameOf [7], true⟩ } = .next t ∧ t.slot ≠ ⟨frameOf [7], true⟩ :=
  ⟨_, rfl, by decide⟩
/-- A sync pulse of 8001 and nine pairs at the bounds: 100 = MIN_GAP, pulse width 0; 8000 = SYNC_THRESHOLD is plausible too. -/
theorem wit_FullFrameIsPublishedExactlyOnce :
    (State.resetWith cfgC).cfg.wf ∧ (8001#32).toNat < cfgC.modulus ∧ cfgC.syncThreshold < cfgC.modulus ∧
      cfgC.syncThreshold < edgeWidth (State.resetWith cfgC) 8001#32 ∧ (List.replicate 9 (100, 0)).length = 9 ∧
      (∀ gp ∈ List.replicate 9 (100, 0), PlausiblePair cfgC gp.1 gp.2) ∧ PlausiblePair cfgC 8000 8000 :=
  ⟨by decide, by decide, by decide, by decide, by decide,
    fun gp h => by rw [List.eq_of_mem_replicate h]; exact ⟨by decide, by decide, by decide, by decide, by decide⟩,
    ⟨by decide, by decide, by decide, by decide, by decide⟩⟩
/-- Eight pairs and none; the next sync pulse 8001 ticks after the last edge. -/
theorem wit_SyncPulseMidFrameDiscardsIt :
    (State.resetWith cfgC).cfg.wf ∧ (8001#32).toNat < cfgC.modulus ∧ cfgC.syncThreshold < cfgC.modulus ∧
      cfgC.syncThreshold < edgeWidth (State.resetWith cfgC) 8001#32 ∧ (List.replicate 8 (100, 1000)).length < 9 ∧
      (∀ gp ∈ List.replicate 8 (100, 1000), PlausiblePair cfgC gp.1 gp.2) ∧ ([] : List (Nat × Nat)).length < 9 ∧
      (24802#32).toNat < cfgC.modulus ∧ cfgC.syncThreshold < elapsed cfgC.modulus (24802#32).toNat (8001 + 8 * 1100) :=
  ⟨by decide, by decide, by decide, by decide, by decide,
    fun gp h => by rw [List.eq_of_mem_replicate h]; exact ⟨by decide, by decide, by decide, by decide, by decide⟩,
    by decide, by decide, by decide⟩
/-- In Pulse at index 1 a stale `chan[1]` and, in mode PULSE_ONLY, a stale gap width; the next edge stores and completes. -/
theorem wit_StaleValuesAreNeverObservable :
    Indistinguishable (atPpm cfgA { dec .pulse 1 1000 with chan := frameOf [5, 6] })
        (atPpm cfgA { dec .pulse 1 1000 with chan := frameOf [5, 9], gapWidth := 3#32 }) ∧
      (∃ u, exec (.edge 2000#32) (atPpm cfgA { dec .pulse 1 1000 with chan := frameOf [5, 6] }) = .next u) :=
  ⟨⟨rfl, rfl, ⟨rfl, rfl, fun _ => rfl, fun _ i hi => by
      have : i = 0 := by simpa [atPpm, dec] using hi
      subst this; rfl, fun _ h => by cases h⟩, rfl, fun _ => rfl, rfl, rfl, rfl, fun _ => rfl, rfl, rfl, rfl⟩, ⟨_, rfl⟩⟩
/-- A threshold at MODULUS - 1 and at MODULUS - 2; the bounds 65535 and 32767 of R268. -/
theorem wit_SoundConfigurationsOfTheDecoder :
    (¬ canSync cfgStuck ∧ (State.resetWith cfgStuck).ppm.state = .waiting ∧ canSync { cfgStuck with syncThreshold := 65534 }) ∧
      (cannotOverflow cfgStuck ∧ cannotOverflow { cfgB with syncThreshold := 32767 } ∧
        ¬ cannotOverflow { cfgB with syncThreshold := 32768 }) ∧
      Inv (State.resetWith cfgStuck) ∧ (∃ t, exec (.edge 65535#32) (State.resetWith cfgStuck) = .next t) :=
  ⟨⟨by unfold canSync; decide, by decide, by unfold canSync; decide⟩,
    ⟨by show _ ≤ _; decide, by show _ ≤ _; decide, by show ¬ _ ≤ _; decide⟩,
    ⟨by decide, by decide, by decide, by decide, by decide, by decide, by decide, by decide, by decide⟩, ⟨_, rfl⟩⟩
theorem wit_EncBeaconProducesSixBytes : 0x83#8 &&& 0x7C#8 = 0#8 ∧ 0x7D#8 &&& 0x7C#8 ≠ 0#8 ∧ 0x04#8 &&& 0x7C#8 ≠ 0#8 := by decide
theorem wit_EncControlProducesTwentyOneBytes :
    crc16 cfgA ([0x01#8] ++ le16 1#16 ++ le16 1500#16 ++ le16 1500#16 ++ le16 1500#16 ++ le16 1500#16 ++ le16 1500#16
      ++ le16 1500#16 ++ le16 1500#16 ++ le16 1500#16 ++ [0x00#8, 0x00#8]) = 0xD0E9#16 := by decide +kernel
theorem wit_EncTelemetryProducesThirteenBytes :
    crc16 cfgA ([0x02#8] ++ le16 0x0100#16 ++ le16 7400#16 ++ le16 1000#16 ++ le16 3#16 ++ le16 1#16 ++ [0x00#8, 0x00#8])
      = 0x6A82#16 := by decide +kernel
theorem wit_DecodeReportsItsResult :
    decodeBytes cfgA [0x00, 0x00, 0x00, 0x01, 0xAC, 0x52] = .ok (.beacon 0#16 true false false) ∧
      decodeBytes cfgA [] = .corrupt .tooShort := by decide +kernel
/-- Lengths 4 and 5; types 2 and 3; V53 (5 bytes), V40, V44, V46 at their lengths, V56 one byte short of Control's; Telemetry's one
byte short with the checksum of that length. -/
theorem wit_DecodeTestsLengthChecksumTypeInOrder :
    [0x00#8, 0x00, 0x00, 0x01].length < 5 ∧
      (crc16 cfgA [0x00, 0x00, 0x00, 0x01, 0x00, 0x00] ≠ read16 [0x00, 0x00, 0x00, 0x01, 0xAC, 0x53] 4) ∧
      (crc16 cfgA [0x00, 0x00, 0x00, 0x00, 0x00] = read16 [0x00, 0x00, 0x00, 0x88, 0x30] 3) ∧
      (crc16 cfgA [0x03, 0x00, 0x00, 0x01, 0x00, 0x00] = read16 [0x03, 0x00, 0x00, 0x01, 0xD1, 0x5E] 4) ∧
      (crc16 cfgA [0x00, 0x00, 0x00, 0x01, 0x00, 0x00] = read16 [0x00, 0x00, 0x00, 0x01, 0xAC, 0x52] 4) ∧
      (crc16 cfgA (bytesV44.take 19 ++ [0x00, 0x00]) = read16 bytesV44 19 ∧ read8 bytesV44 0 = 0x01#8 ∧ bytesV44.length = 21) ∧
      (crc16 cfgA (bytesV44.take 18 ++ [0x00, 0x00]) = read16 (bytesV44.take 18 ++ [0x0E, 0x2A]) 18) ∧
      (crc16 cfgA (bytesV46.take 11 ++ [0x00, 0x00]) = read16 bytesV46 11 ∧ read8 bytesV46 0 = 0x02#8 ∧ bytesV46.length = 13) ∧
      (crc16 cfgA (bytesV46.take 10 ++ [0x00, 0x00]) = read16 (bytesV46.take 10 ++ [0xF9, 0xCC]) 10) := by
  decide +kernel
theorem wit_EncodingADecodedBufferGivesItBack :
    decodeBytes cfgA [0x00, 0x34, 0x12, 0x82, 0x32, 0xB2] = .ok (.beacon 0x1234#16 false true true) ∧
      read8 [0x00, 0x34, 0x12, 0x82, 0x32, 0xB2] 3 &&& 0x7C#8 = 0#8 := by decide +kernel
/-- Bit 0 and the last bit of a Beacon. -/
theorem wit_EverySingleBitFlipIsDetected :
    cfgA.crcPolyRefl ≠ 0#16 ∧ 0 < 8 * (encodePacket cfgA (.beacon 0#16 true false false)).length ∧
      47 < 8 * (encodePacket cfgA (.beacon 0#16 true false false)).length := by decide +kernel
theorem wit_FramerOperationsArePure :
    unitOf (.encTelemetry 0#16 ⟨0, 0, 0, 0⟩) = .frameCodec ∧
      (∃ t, exec (.encTelemetry 0#16 ⟨0, 0, 0, 0⟩) State.reset = .next t) ∧ (atPair .bound macA true false).cfg = State.reset.cfg :=
  ⟨rfl, ⟨_, rfl⟩, by decide⟩
theorem wit_PairStartInstallsThePeer :
    (atPair .idle broadcast false false).pair.state = .idle ∧ macA ≠ broadcast ∧ (atPair .bound macA true false).pair.state ≠ .idle := by
  decide
theorem wit_PairStartInstallsThePeer_refused : macA ≠ zeroMac := by decide
theorem wit_PairTimeoutOpensBinding :
    (atPair .waiting macA true false).pair.timerArmed = false ∧ ((atPair .waiting macA true true).pair.state = .waiting ∧ (atPair .waiting macA true true).pair.timerArmed = true) ∧
      (atPair .binding macA true false).pair.state ≠ .waiting := by decide
theorem wit_PairBeaconBindsOrIsIgnored :
    ((atPair .waiting macA true true).pair.state = .waiting ∧ (atPair .waiting macA true true).peer.bound = true ∧
      macA = (atPair .waiting macA true true).peer.mac ∧ (0x7F#8).getLsbD 7 = false) ∧
    ((atPair .binding macB true false).pair.state = .binding ∧ (0x80#8).getLsbD 7 = true ∧ macA ≠ broadcast) ∧
    (¬ (macB = (atPair .waiting macA true true).peer.mac) ∧ (atPair .waiting macA true true).pair.state ≠ .binding) := by decide
theorem wit_PairCancelLeavesBindingForGood :
    (atPair .binding macA true false).pair.state = .binding ∧ (atPair .bound macA true false).pair.state ≠ .binding := by decide
theorem wit_UnlistedPairingInputsAreIgnored :
    unitOf (.pairBeacon macB 0x81#8) = .pairing ∧ (Instr.pairBeacon macB 0x81#8).admissible cfgA = true ∧
      ¬ pairTransitionListed (atPair .bound macA true false) (.pairBeacon macB 0x81#8) :=
  ⟨rfl, rfl, fun h => by rcases h with h | h <;> cases h.1⟩
theorem wit_BoundIsLeftOnlyByReset :
    (atPair .bound macA true false).pair.state = .bound ∧ Instr.pairTimeout ≠ .reset ∧
      (∃ t, exec .pairTimeout (atPair .bound macA true false) = .next t) := ⟨rfl, by decide, ⟨_, rfl⟩⟩
theorem wit_PairCancelLeavesBindingForGood_absorbing :
    (atPair .cancelled macA true false).pair.state = .cancelled ∧ Instr.pairBeacon macA 0x81#8 ≠ .reset ∧
      (∃ t, exec (.pairBeacon macA 0x81#8) (atPair .cancelled macA true false) = .next t) := ⟨rfl, by decide, ⟨_, rfl⟩⟩
theorem wit_TwoNodesBindToEachOther :
    ({ atPair .binding broadcast false false with cfg := { cfgA with role := .transmitter } } : State).cfg.role = .transmitter ∧
      (atPair .binding broadcast false false).cfg.role = .receiver ∧ (atPair .binding broadcast false false).pair.state = .binding ∧
      macA ≠ broadcast ∧ macB ≠ broadcast := by decide
/-- Distances 0, 1, 32767 and 32768 from 65535, and the first observation. -/
theorem wit_ObserveCountsGapsAndReordering :
    State.reset.health.firstSeq = none ∧ (atHealth ⟨some 0, 0xFFFF, 0, 0⟩).health.firstSeq ≠ none ∧
      0 = ((0xFFFF#16).toNat + 65536 - (0xFFFF#16).toNat) % 65536 ∧ 1 = ((0#16).toNat + 65536 - (0xFFFF#16).toNat) % 65536 ∧
      32767 = ((0x7FFE#16).toNat + 65536 - (0xFFFF#16).toNat) % 65536 ∧
      32768 = ((0x7FFF#16).toNat + 65536 - (0xFFFF#16).toNat) % 65536 := by decide
theorem wit_HealthReadReturnsTheTriple :
    (State.reset.health.firstSeq = none ∧ (0#16 : U16) = 0#16) ∧
      ((3#16).toNat = ((2#16).toNat + 65536 - (0xFFFF#16).toNat) % 65536) := by decide
theorem wit_LinkCountersNeverDecrease :
    Instr.observe 10#16 ≠ .reset ∧ (∃ t, exec (.observe 10#16) (atHealth ⟨some 0, 0, 4294967290, 0⟩) = .next t) :=
  ⟨by decide, ⟨_, rfl⟩⟩
theorem wit_HealthHasNoEffectOnTraffic : ∃ t, exec (.pairAccept macA) State.reset = .next t := ⟨_, rfl⟩
theorem wit_ResetMeetsTheInvariants : cfgA.wf ∧ cfgB.wf ∧ cfgStuck.wf ∧ ({ cfgA with modulus := 2 } : Config).wf := by decide
/-- An edge that moves a decoder with the invariant, fetched from the inbox. -/
theorem wit_EveryStepKeepsTheInvariants :
    Inv ((atPpm cfgC (dec .pulse 8 27400)).withFetchWord 40 0x721003) ∧
      (∃ t, step ((atPpm cfgC (dec .pulse 8 27400)).withFetchWord 40 0x721003) = .next t) :=
  ⟨⟨by decide, by decide, by decide, by decide, by decide, by decide, by decide, by decide, by decide⟩, ⟨_, rfl⟩⟩
theorem wit_EveryStepKeepsThePairingInvariant :
    PairInv ((atPair .binding broadcast false false).withFetchWord 8 0x33) ∧
      (∃ t, step ((atPair .binding broadcast false false).withFetchWord 8 0x33) = .next t) :=
  ⟨⟨by decide, by decide, by decide, by decide⟩, ⟨_, rfl⟩⟩
theorem wit_EveryReachableStateMeetsTheInvariants :
    Reachable { State.resetWith cfgC with inbox := [] ++ [.operation [0x01]] } := .issue _ _ (.boot _ (by decide))
theorem wit_ElementsAreWrittenOnlyByTheirOperations :
    (∃ t, exec (.observe 7#16) State.reset = .next t ∧ t.health ≠ State.reset.health) ∧ Instr.observe 7#16 ≠ .reset :=
  ⟨⟨_, rfl, by decide⟩, by decide⟩
theorem wit_ConfigurationIsConstant : ∃ t, step (State.reset.withFetchWord 8 0x01) = .next t := ⟨_, rfl⟩
theorem wit_OutcomesComeFromTheirOperations :
    (∃ t, exec .rollover (atPpm cfgA (dec .gap 0 0)) = .next t ∧ t.out.outcome = .frameAbort .rollover) ∧
      (∃ t, exec (.edge 21001#32) (atPpm cfgA (dec .gap 2 13000)) = .next t ∧ t.out.outcome = .syncDiscard) ∧
      (∃ t, exec (.decode []) State.reset = .next t ∧ t.out.outcome = .corrupt .tooShort) ∧
      (∃ t, exec .pairCancel State.reset = .next t ∧ t.out.outcome = .ignored) ∧
      (∃ t, exec .take State.reset = .next t ∧ t.out.outcome = .empty) :=
  ⟨⟨_, rfl, rfl⟩, ⟨_, rfl, rfl⟩, ⟨_, rfl, rfl⟩, ⟨_, rfl, rfl⟩, ⟨_, rfl, rfl⟩⟩
theorem wit_StepRunsTheDecodedInstruction :
    ({ State.reset with inbox := [.operation [0x01]] } : State).inbox = [.operation [0x01]] ∧
      read (.operation [0x01]) = some .tick ∧ rejected [0x07] = some .unassignedOpcode ∧ State.reset.inbox = [] := by decide
/-- One refused word for each case of R88 at its boundary, and words that are not refused. -/
theorem wit_ExactlyTheIllFormedWordsAreRefused :
    wordRefused cfgC [] ∧ wordRefused cfgC [0x07] ∧ wordRefused cfgC [0x03, 0x00, 0x00, 0x01, 0x00] ∧
      wordRefused cfgC [0x20, 0x00, 0x00, 0x04] ∧ wordRefused cfgC [0x28, 0x01] ∧
      wordRefused cfgC [0x30, 0x02, 0, 0, 0, 0, 0, 0] ∧ wordRefused cfgC [0x30, 0x00, 0, 0, 0, 0, 0, 1] ∧
      wordRefused cfgC [0x30, 0x01, 0xFF, 0xFF, 0xFF, 0xFF, 0xFF, 0xFF] ∧ wordRefused cfgC [0x01, 0x00] ∧
      ¬ wordRefused cfgC [0x30, 0x00, 0, 0, 0, 0, 0, 0] ∧ ¬ wordRefused cfgC [0x30, 0x01, 0xFF, 0xFF, 0xFF, 0xFF, 0xFF, 0xFE] ∧
      ¬ wordRefused cfgC [0x03, 0xFF, 0xFF, 0x00, 0x00] ∧ ¬ wordRefused cfgC [0x28, 0x00] ∧ ¬ wordRefused cfgC [0x01] :=
  ⟨trivial, trivial, by show _ ∨ _; decide, by show _ ∨ _; decide, by show _ ∨ _; decide, by show _ ∨ _ ∨ _ ∨ _; decide,
    by show _ ∨ _ ∨ _ ∨ _; decide, by show _ ∨ _ ∨ _ ∨ _; decide, by show _ ≠ _; decide, by show ¬ (_ ∨ _ ∨ _ ∨ _); decide,
    by show ¬ (_ ∨ _ ∨ _ ∨ _); decide, by show ¬ (_ ∨ _); decide, by show ¬ (_ ∨ _); decide, by show ¬ (_ ≠ _); decide⟩
theorem wit_ReceivedPacketsAlwaysRun :
    ({ State.reset with inbox := [.packet []] } : State).inbox = .packet [] :: [] := rfl
theorem wit_DecodingAnEncodedInstructionGivesItBack :
    (Instr.decode (List.replicate 255 0#8)).wf = true ∧ (Instr.encBeacon 0xFFFF#16 0x83#8).wf = true := by decide +kernel
theorem wit_EveryOperationWordIsTheEncodingOfItsOperation :
    read (.operation [0x28, 0x01, 0x7F]) = some (.decode [0x7F]) := by decide
/-- d = 0 and the largest d below the wrap. -/
theorem wit_WaitAddsItsTicks :
    (State.resetWith cfgC).clk.count + 0 < cfgC.modulus ∧ (State.resetWith cfgC).clk.count + 65535 < cfgC.modulus ∧
      cfgC.modulus ≤ 4294967296 := by decide
theorem wit_ReceivePathObservesThenRoutes :
    decodeBytes cfgA [0x00, 0x00, 0x00, 0x01, 0xAC, 0x52] = .ok (.beacon 0#16 true false false) ∧
      decodeBytes cfgA bytesV44 = .ok (.control 1#16 all1500) ∧
      decodeBytes cfgA [0x00, 0x00, 0x00, 0x01, 0xAC, 0x53] = .corrupt .badChecksum := by decide +kernel

end Sys2Proof.Tests
end

section
/-! Proofs of the family 00_scope.md: what one step does with its input (R5, R16, R56), and which operations complete (R16, R88). -/

namespace Sys2Proof.Machine

/-! ### One step -/

/-- With no input waiting the block waits (log 3). -/
theorem step_of_no_input {s : State} (h : s.inbox = []) : step s = .next s := by
  simp only [step, h]

/-- An input that decodes is consumed whole and its operation runs (R5, R56). -/
theorem step_of_decoded {s : State} {x : Input} {rest : List Input} {i : Instr} (h : s.inbox = x :: rest)
    (hx : decodeInput x = .ok i) : step s = exec i { s with inbox := rest } := by
  simp only [step, h, hx]

/-- An ill-formed word is refused by the name of its defect (R16, R88). -/
theorem step_of_illFormed {s : State} {x : Input} {rest : List Input} {why : IllFormed} (h : s.inbox = x :: rest)
    (hx : decodeInput x = .error why) : step s = .refused (.illFormed why) := by
  simp only [step, h, hx]

/-- Settles O51: the three ways a step can go, by the inbox and the decoder's answer. -/
theorem stepRunsTheDecodedInstruction : Obligations.StepRunsTheDecodedInstruction :=
  fun _ _ _ _ _ => ⟨step_of_decoded, step_of_illFormed, step_of_no_input⟩

/-! ### Which operations complete -/

/-- R88's constraint on PAIR_START with a persisted peer. -/
theorem pairStart_present_wf_iff {mac : Mac} : (Instr.pairStart true mac).wf = true ↔ mac ≠ broadcast := by
  by_cases h : mac = broadcast <;> simp [Instr.wf, Instr.defect?, h]

/-- R88's constraint on PAIR_START without one. -/
theorem pairStart_absent_wf_iff {mac : Mac} : (Instr.pairStart false mac).wf = true ↔ mac = zeroMac := by
  by_cases h : mac = zeroMac <;> simp [Instr.wf, Instr.defect?, h]

/-- R88's constraint on ENC_BEACON. -/
theorem encBeacon_wf_iff {seq : U16} {f : Byte} : (Instr.encBeacon seq f).wf = true ↔ reservedClear f = true := by
  cases h : reservedClear f <;> simp [Instr.wf, Instr.defect?, h]

/-- Each way to complete is one of an admissible operation: the four that R88 constrains carry their constraint. -/
theorem ExecCase.admissible {i : Instr} {s t : State} (h : ExecCase s i t) : i.admissible s.cfg = true := by
  cases h with
  | edge hm => exact decide_eq_true hm
  | elapsed hm => exact decide_eq_true hm
  | encBeacon hf => exact encBeacon_wf_iff.mpr hf
  | pairStart _ hm => exact pairStart_present_wf_iff.mpr hm
  | pairStartAbsent _ => exact pairStart_absent_wf_iff.mpr rfl
  | pairStartIgnored _ hw => exact hw
  | _ => rfl

/-- A well-formed PAIR_START completes: ignored outside Idle, otherwise by its `present` bit (R176). -/
theorem ExecCase.exists_pairStart {present : Bool} {mac : Mac} (s : State) (hw : (Instr.pairStart present mac).wf = true) :
    ∃ t, ExecCase s (.pairStart present mac) t := by
  by_cases hi : s.pair.state = .idle
  · cases present with
    | true => exact ⟨_, .pairStart hi (pairStart_present_wf_iff.mp hw)⟩
    | false => cases pairStart_absent_wf_iff.mp hw; exact ⟨_, .pairStartAbsent hi⟩
  · exact ⟨_, .pairStartIgnored hi hw⟩

/-- PAIR_BEACON completes: the fast path, the bind, or ignored (R178). -/
theorem ExecCase.exists_pairBeacon (src : Mac) (f : Byte) (s : State) : ∃ t, ExecCase s (.pairBeacon src f) t := by
  by_cases hw : s.pair.state = .waiting ∧ s.peer.bound = true ∧ src = s.peer.mac ∧ bindBit f = false
  · obtain ⟨hs, hb, hm, hf⟩ := hw
    exact ⟨_, .fastPath hs hb hm hf⟩
  by_cases hb : s.pair.state = .binding ∧ bindBit f = true ∧ src ≠ broadcast
  · obtain ⟨hs, hf, hm⟩ := hb
    exact ⟨_, .bind hs hf hm⟩
  exact ⟨_, .pairBeaconIgnored hw hb⟩

/-- Every admissible operation has a way to complete, in every state. -/
theorem ExecCase.exists_of_admissible {i : Instr} {s : State} (h : i.admissible s.cfg = true) : ∃ t, ExecCase s i t := by
  cases i with
  | reset => exact ⟨_, .reset⟩
  | tick =>
    by_cases hz : (s.clk.count + 1) % s.cfg.modulus = 0
    · exact ⟨_, .tickWrap hz⟩
    · exact ⟨_, .tick hz⟩
  | rollover => exact ⟨_, .rollover⟩
  | edge t => exact ⟨_, .edge (of_decide_eq_true h) (ppmEdge_cases t.toNat s)⟩
  | take =>
    cases hf : s.slot.full with
    | true => exact ⟨_, .take hf⟩
    | false => exact ⟨_, .takeEmpty hf⟩
  | now => exact ⟨_, .now⟩
  | elapsed since => exact ⟨_, .elapsed (of_decide_eq_true h)⟩
  | encBeacon seq f => exact ⟨_, .encBeacon (encBeacon_wf_iff.mp h)⟩
  | encControl seq p => exact ⟨_, .encControl⟩
  | encTelemetry seq p => exact ⟨_, .encTelemetry⟩
  | decode b => exact ⟨_, .decode⟩
  | pairStart present mac => exact exists_pairStart s h
  | pairTimeout =>
    by_cases ht : s.pair.state = .waiting ∧ s.pair.timerArmed = true
    · obtain ⟨hw, ha⟩ := ht
      exact ⟨_, .pairTimeout hw ha⟩
    · exact ⟨_, .pairTimeoutIgnored ht⟩
  | pairBeacon src f => exact exists_pairBeacon src f s
  | pairCancel =>
    by_cases hb : s.pair.state = .binding
    · exact ⟨_, .pairCancel hb⟩
    · exact ⟨_, .pairCancelIgnored hb⟩
  | pairAccept src => exact ⟨_, .pairAccept⟩
  | observe seq => exact ⟨_, .observe⟩
  | healthRead => exact ⟨_, .healthRead⟩
  | beacon seq f c => exact ⟨_, .beacon⟩
  | control seq p c => exact ⟨_, .control⟩
  | telemetry seq p c => exact ⟨_, .telemetry⟩

/-- Settles O54: the ways to complete (`ExecCase`) are those of the admissible operations. -/
theorem admissibleInstructionsComplete : Obligations.AdmissibleInstructionsComplete := by
  intro i s
  constructor
  · intro h
    obtain ⟨t, ht⟩ := ExecCase.exists_of_admissible h
    exact ⟨t, exec_of_case ht⟩
  · rintro ⟨t, ht⟩
    exact (exec_cases ht).admissible

end Sys2Proof.Machine
end

section
/-! Proofs of the family 10_state.md: the values after reset (R40, R41), what each operation may write (R37, R39), and what no
report can tell apart (R26, R40, I13). -/

namespace Sys2Proof.Machine

/-! ### After reset -/

/-- Settles O1: R40's table row by row; the arrays are constant, so each element has the array's value. -/
theorem resetValuesOfEveryElement : Obligations.ResetValuesOfEveryElement := by
  intro c
  have hframe (i : Nat) (h : i < 9) : (Vector.replicate numChannels 0#16)[i] = 0#16 := Vector.getElem_replicate h
  have hmac : ∀ i (h : i < 6), broadcast[i] = 0xFF#8 := by decide
  exact ⟨rfl, rfl, rfl, rfl, rfl, hframe, hframe, rfl, hmac, rfl, rfl, rfl, rfl, rfl, rfl, rfl, rfl⟩

/-- R41 after reset: every count and index is 0, so below MODULUS and N; no frame and no timer runs, and no peer is bound. -/
theorem inv_resetWith {c : Config} (h : c.wf) : Inv (State.resetWith c) where
  config := h
  count := show 0 < c.modulus by omega
  lastEdge := show 0 < c.modulus by omega
  indexBound := Nat.zero_le _
  indexInFrame := fun hs => absurd rfl hs
  gapBound := Nat.zero_le _
  gapUnused := fun _ => rfl
  timer := nofun
  unbound := fun _ => rfl

/-- After reset the pairing unit is Idle and unbound, with the timer off. -/
theorem pairInv_resetWith (c : Config) : PairInv (State.resetWith c) where
  timer := ⟨nofun, nofun⟩
  idle := fun _ => rfl
  bound := nofun
  concrete := ⟨nofun, fun hm => absurd rfl hm⟩

/-- Settles O44: `State.reset` is the reset state of a configuration in range. -/
theorem resetMeetsTheInvariants : Obligations.ResetMeetsTheInvariants :=
  have hc : Config.atReset.wf := by decide
  ⟨fun c h => ⟨inv_resetWith h, pairInv_resetWith c⟩, inv_resetWith hc, pairInv_resetWith _⟩

/-! ### What an operation may write -/

section Frames

variable {s t u : State} {i : Instr} {n w : Nat}

/-- An edge writes the decoder, the slot and the report, and nothing else. -/
theorem EdgeCase.frame (h : EdgeCase s n w u) : u = { s with ppm := u.ppm, slot := u.slot, out := u.out } := by
  cases h <;> rfl

/-- An edge changes the gap width only where it ends a gap in mode GAP_PLUS_PULSE (R124, R25). -/
theorem EdgeCase.gapWidth_eq_or (h : EdgeCase s n w u) :
    u.ppm.gapWidth = s.ppm.gapWidth ∨ s.ppm.state = .gap ∧ s.cfg.widthMode = .gapPlusPulse := by
  cases h with
  | gap _ hs _ =>
    by_cases hm : s.cfg.widthMode = .gapPlusPulse
    · exact .inr ⟨hs, hm⟩
    · exact .inl (if_neg hm)
  | _ => exact .inl rfl

/-- An edge changes a channel value only where it ends a pulse (R125). -/
theorem EdgeCase.chan_eq_or (h : EdgeCase s n w u) : u.ppm.chan = s.ppm.chan ∨ s.ppm.state = .pulse := by
  cases h with
  | store _ hs | publish _ hs => exact .inr hs
  | _ => exact .inl rfl

/-- No operation writes the configuration, RESET included (R37, R266). -/
theorem ExecCase.cfg_eq (h : ExecCase s i t) : t.cfg = s.cfg := by
  cases h with
  | edge _ he => rw [he.frame]
  | _ => rfl

/-- U1's state is written by TICK alone. -/
theorem ExecCase.clk_eq_or (h : ExecCase s i t) (hr : i ≠ .reset) : t.clk = s.clk ∨ i = .tick := by
  cases h with
  | reset => exact absurd rfl hr
  | tick | tickWrap => exact .inr rfl
  | edge _ he => exact .inl (by rw [he.frame])
  | _ => exact .inl rfl

/-- The decoder is written by EDGE; the rollover effect, of ROLLOVER or of a wrapping TICK, writes its state alone (R129). -/
theorem ExecCase.ppm_eq_or (h : ExecCase s i t) (hr : i ≠ .reset) :
    t.ppm = s.ppm ∨
    (t.ppm = { s.ppm with state := .waiting } ∧ (i = .rollover ∨ i = .tick ∧ t.clk.count = 0)) ∨
    ∃ v, i = .edge v ∧ EdgeCase s v.toNat (Machine.elapsed s.cfg.modulus v.toNat s.ppm.lastEdge) t := by
  cases h with
  | reset => exact absurd rfl hr
  | tickWrap => exact .inr (.inl ⟨rfl, .inr ⟨rfl, rfl⟩⟩)
  | rollover => exact .inr (.inl ⟨rfl, .inl rfl⟩)
  | edge _ he => exact .inr (.inr ⟨_, rfl, he⟩)
  | _ => exact .inl rfl

/-- The slot is written by EDGE; TAKE writes its full bit alone (R130). -/
theorem ExecCase.slot_eq_or (h : ExecCase s i t) (hr : i ≠ .reset) :
    t.slot = s.slot ∨ (i = .take ∧ t.slot.frame = s.slot.frame) ∨ ∃ v, i = .edge v := by
  cases h with
  | reset => exact absurd rfl hr
  | take => exact .inr (.inl ⟨rfl, rfl⟩)
  | edge => exact .inr (.inr ⟨_, rfl⟩)
  | _ => exact .inl rfl

/-- The peer is written by PAIR_START and PAIR_BEACON alone. -/
theorem ExecCase.peer_eq_or (h : ExecCase s i t) (hr : i ≠ .reset) :
    t.peer = s.peer ∨ (∃ p m, i = .pairStart p m) ∨ ∃ m f, i = .pairBeacon m f := by
  cases h with
  | reset => exact absurd rfl hr
  | pairStart | pairStartAbsent => exact .inr (.inl ⟨_, _, rfl⟩)
  | bind => exact .inr (.inr ⟨_, _, rfl⟩)
  | edge _ he => exact .inl (by rw [he.frame])
  | _ => exact .inl rfl

/-- The pairing state machine is written by PAIR_START, PAIR_TIMEOUT and PAIR_BEACON; PAIR_CANCEL leaves its timer bit (R181). -/
theorem ExecCase.pair_eq_or (h : ExecCase s i t) (hr : i ≠ .reset) :
    t.pair = s.pair ∨ (∃ p m, i = .pairStart p m) ∨ i = .pairTimeout ∨ (∃ m f, i = .pairBeacon m f) ∨
      (i = .pairCancel ∧ t.pair.timerArmed = s.pair.timerArmed) := by
  cases h with
  | reset => exact absurd rfl hr
  | pairStart | pairStartAbsent => exact .inr (.inl ⟨_, _, rfl⟩)
  | pairTimeout => exact .inr (.inr (.inl rfl))
  | fastPath | bind => exact .inr (.inr (.inr (.inl ⟨_, _, rfl⟩)))
  | pairCancel => exact .inr (.inr (.inr (.inr ⟨rfl, rfl⟩)))
  | edge _ he => exact .inl (by rw [he.frame])
  | _ => exact .inl rfl

/-- The link statistics are written by OBSERVE alone. -/
theorem ExecCase.health_eq_or (h : ExecCase s i t) (hr : i ≠ .reset) : t.health = s.health ∨ ∃ q, i = .observe q := by
  cases h with
  | reset => exact absurd rfl hr
  | observe => exact .inr ⟨_, rfl⟩
  | edge _ he => exact .inl (by rw [he.frame])
  | _ => exact .inl rfl

end Frames

/-- A step that answers a state waited, or ran an operation to one of its ends on the state with the input consumed (R5, R56). -/
theorem step_cases {s t : State} (h : step s = .next t) :
    (s.inbox = [] ∧ t = s) ∨
      ∃ x rest i, s.inbox = x :: rest ∧ decodeInput x = .ok i ∧ ExecCase { s with inbox := rest } i t := by
  cases hx : s.inbox with
  | nil =>
    rw [step_of_no_input hx] at h
    cases h
    exact .inl ⟨rfl, rfl⟩
  | cons x rest =>
    cases hd : decodeInput x with
    | error why => rw [step_of_illFormed hx hd] at h; cases h
    | ok i =>
      rw [step_of_decoded hx hd] at h
      exact .inr ⟨x, rest, i, rfl, hd, exec_cases h⟩

/-- Settles O49: waiting changes nothing, and no operation writes the configuration. -/
theorem configurationIsConstant : Obligations.ConfigurationIsConstant := by
  intro s t h
  obtain ⟨-, rfl⟩ | ⟨x, rest, i, -, -, hc⟩ := step_cases h
  · rfl
  · exact hc.cfg_eq

/-- Settles O48, unit by unit: who may have written the unit, and which of its elements. -/
theorem elementsAreWrittenOnlyByTheirOperations : Obligations.ElementsAreWrittenOnlyByTheirOperations := by
  intro i s t h hr
  have hc := exec_cases h
  have hclk := hc.clk_eq_or hr
  have hslot := hc.slot_eq_or hr
  have hpeer := hc.peer_eq_or hr
  have hpair := hc.pair_eq_or hr
  have hhealth := hc.health_eq_or hr
  obtain hppm | ⟨hppm, hroll⟩ | ⟨v, rfl, he⟩ := hc.ppm_eq_or hr
  · grind
  · grind
  · -- Only an edge can reach the gap width and the channel values.
    have hgap := he.gapWidth_eq_or
    have hchan := he.chan_eq_or
    grind

/-! ### What no report can tell apart -/

section Stale

variable {s t u : State} {c : Config} {p q : Ppm}

/-- In Waiting only `last_edge` matters. -/
theorem SamePartialFrame.of_waiting (hp : p.state = .waiting) (hq : q.state = .waiting) (hl : p.lastEdge = q.lastEdge) :
    SamePartialFrame c p q where
  state := hp.trans hq.symm
  lastEdge := hl
  index := fun h => absurd hp h
  chan := fun h => absurd hp h
  gap := fun h => by rw [hp] at h; cases h

/-- The value an edge gives a channel in Pulse reads the gap width only where the two agree. -/
theorem SamePartialFrame.channelValue_eq (h : SamePartialFrame c p q) (hp : p.state = .pulse) (w : Nat) :
    channelValue c q.gapWidth w = channelValue c p.gapWidth w := by
  cases hm : c.widthMode with
  | pulseOnly => simp [channelValue, hm]
  | gapPlusPulse => rw [h.gap hp hm]

/-- Storing one value at the same index extends the agreement by that index. -/
theorem setIfInBounds_agree {f g : ChannelFrame} {k : Nat} (h : ∀ i, i < k → f[i]? = g[i]?) (v : U16) (i : Nat)
    (hi : i < k + 1) : (f.setIfInBounds k v)[i]? = (g.setIfInBounds k v)[i]? := by
  obtain hlt | rfl := Nat.lt_succ_iff_lt_or_eq.mp hi
  · rw [Vector.getElem?_setIfInBounds_ne (by omega), Vector.getElem?_setIfInBounds_ne (by omega), h i hlt]
  · simp [Vector.getElem?_setIfInBounds]

/-- Frames that agree below N are equal. -/
theorem frame_eq_of_agree {f g : ChannelFrame} {k : Nat} (hk : numChannels ≤ k) (h : ∀ i, i < k → f[i]? = g[i]?) : f = g := by
  refine Vector.ext fun i hi => ?_
  simpa [hi] using h i (hi.trans_le hk)

/-- The four parts in which two such states may differ. -/
theorem Indistinguishable.exists_update (h : Indistinguishable s t) :
    ∃ p x k r, t = { s with ppm := p, slot := x, health := k, out := r } :=
  ⟨t.ppm, t.slot, t.health, t.out,
    State.ext_fields h.cfg.symm h.clk.symm rfl rfl h.peer.symm h.pair.symm rfl h.inbox.symm rfl⟩

/-- Once a sequence number was observed, the link statistics are the same. -/
theorem Indistinguishable.health_eq (h : Indistinguishable s t) (hf : s.health.firstSeq ≠ none) : s.health = t.health := by
  have h1 := h.firstSeq
  have h2 := h.lastSeq hf
  have h3 := h.dropped
  have h4 := h.outOfOrder
  cases hs : s.health; cases ht : t.health
  simp_all

/-- HEALTH_READ's count does not read the last sequence number before the first observation (R203). -/
theorem Indistinguishable.packetCount_eq (h : Indistinguishable s t) : packetCount t.health = packetCount s.health := by
  by_cases hf : s.health.firstSeq = none
  · simp [packetCount, hf, ← h.firstSeq]
  · rw [h.health_eq hf]

/-- An observation keeps the relation: the first one seeds the same values, and after it the statistics are equal (R200). -/
theorem Indistinguishable.observe (h : Indistinguishable s t) (seq : U16) :
    Indistinguishable { s with health := observeSeq seq s.health, out := Report.fresh }
      { t with health := observeSeq seq t.health, out := Report.fresh } := by
  by_cases hf : s.health.firstSeq = none
  · have hf' : t.health.firstSeq = none := h.firstSeq ▸ hf
    exact { h with
      firstSeq := by simp [observeSeq, hf, hf']
      lastSeq := fun _ => by simp [observeSeq, hf, hf']
      dropped := by simpa [observeSeq, hf, hf'] using h.dropped
      outOfOrder := by simpa [observeSeq, hf, hf'] using h.outOfOrder }
  · have he := h.health_eq hf
    exact { h with
      firstSeq := by rw [he]
      lastSeq := fun _ => by rw [he]
      dropped := by rw [he]
      outOfOrder := by rw [he] }

/-- An edge keeps the relation: the decoder's state decides its case, and what it stores or publishes is agreed on. -/
theorem EdgeCase.keeps_indistinguishable {n w : Nat} (hc : EdgeCase s n w u) (h : Indistinguishable s t) :
    ∃ v, EdgeCase t n w v ∧ Indistinguishable u v ∧ v.out = u.out := by
  obtain ⟨q, x, k, r, rfl⟩ := h.exists_update
  have hst : s.ppm.state = q.state := h.ppm.state
  cases hc with
  | sync hw =>
    refine ⟨_, .sync hw, { h with ppm := ?_ }, by rw [hst]⟩
    exact ⟨rfl, rfl, fun _ => rfl, fun _ _ hi => absurd hi (Nat.not_lt_zero _), nofun⟩
  | waiting hw hs => exact ⟨_, .waiting hw (hst ▸ hs), { h with ppm := .of_waiting hs (hst ▸ hs) rfl }, rfl⟩
  | gapShort hw hs hg => exact ⟨_, .gapShort hw (hst ▸ hs) hg, { h with ppm := .of_waiting rfl rfl rfl }, rfl⟩
  | gap hw hs hg =>
    have hne : s.ppm.state ≠ .waiting := by simp [hs]
    refine ⟨_, .gap hw (hst ▸ hs) hg, { h with ppm := ?_ }, rfl⟩
    exact ⟨rfl, rfl, fun _ => h.ppm.index hne, fun _ => h.ppm.chan hne, fun _ hm => (if_pos hm).trans (if_pos hm).symm⟩
  | pulseShort hw hs hp => exact ⟨_, .pulseShort hw (hst ▸ hs) hp, { h with ppm := .of_waiting rfl rfl rfl }, rfl⟩
  | overflow hw hs hp hv =>
    have hval := h.ppm.channelValue_eq hs w
    exact ⟨_, .overflow hw (hst ▸ hs) hp (hval ▸ hv), { h with ppm := .of_waiting rfl rfl rfl }, rfl⟩
  | store hw hs hp hv hi =>
    have hne : s.ppm.state ≠ .waiting := by simp [hs]
    have hval := h.ppm.channelValue_eq hs w
    have hidx := h.ppm.index hne
    have hchan := setIfInBounds_agree (h.ppm.chan hne) (BitVec.ofNat 16 (channelValue s.cfg s.ppm.gapWidth w))
    refine ⟨_, .store hw (hst ▸ hs) hp (hval ▸ hv) (hidx ▸ hi), { h with ppm := ?_ }, rfl⟩
    rw [hval, ← hidx]
    exact ⟨rfl, rfl, fun _ => rfl, fun _ => hchan, nofun⟩
  | publish hw hs hp hv hi =>
    have hne : s.ppm.state ≠ .waiting := by simp [hs]
    have hval := h.ppm.channelValue_eq hs w
    have hidx := h.ppm.index hne
    have hchan := setIfInBounds_agree (h.ppm.chan hne) (BitVec.ofNat 16 (channelValue s.cfg s.ppm.gapWidth w))
    refine ⟨_, .publish hw (hst ▸ hs) hp (hval ▸ hv) (hidx ▸ hi),
      { h with ppm := .of_waiting rfl rfl rfl, full := rfl, frame := fun _ => ?_ }, rfl⟩
    rw [hval, ← hidx]
    exact frame_eq_of_agree hi hchan

/-- Every way to complete is one of both states, with the same report; the operations that write nothing stale keep the relation
as it is, and their reports read elements that agree. -/
theorem ExecCase.keeps_indistinguishable {i : Instr} (hc : ExecCase s i u) (h : Indistinguishable s t) :
    ∃ v, ExecCase t i v ∧ Indistinguishable u v ∧ v.out = u.out := by
  obtain ⟨q, x, k, r, rfl⟩ := h.exists_update
  have hst : s.ppm.state = q.state := h.ppm.state
  have hlast : s.ppm.lastEdge = q.lastEdge := h.ppm.lastEdge
  have hfull : s.slot.full = x.full := h.full
  cases hc with
  | reset =>
    exact ⟨_, .reset, { h with
      clk := rfl, ppm := .of_waiting rfl rfl rfl, full := rfl, frame := nofun, peer := rfl, pair := rfl
      firstSeq := rfl, lastSeq := fun _ => rfl, dropped := rfl, outOfOrder := rfl }, rfl⟩
  | tick hz => exact ⟨_, .tick hz, { h with clk := rfl }, rfl⟩
  | tickWrap hz => exact ⟨_, .tickWrap hz, { h with clk := rfl, ppm := .of_waiting rfl rfl hlast }, by rw [hst]⟩
  | rollover => exact ⟨_, .rollover, { h with ppm := .of_waiting rfl rfl hlast }, by rw [hst]⟩
  | edge hm he =>
    rw [hlast] at he
    obtain ⟨v, hv, hi, ho⟩ := he.keeps_indistinguishable h
    exact ⟨v, .edge hm hv, hi, ho⟩
  | take hf =>
    have hframe : s.slot.frame = x.frame := h.frame hf
    exact ⟨_, .take (hfull ▸ hf), { h with full := rfl, frame := nofun }, by rw [hframe]⟩
  | takeEmpty hf => exact ⟨_, .takeEmpty (hfull ▸ hf), { h with }, rfl⟩
  | now => exact ⟨_, .now, { h with }, rfl⟩
  | elapsed hm => exact ⟨_, .elapsed hm, { h with }, rfl⟩
  | encBeacon hf => exact ⟨_, .encBeacon hf, { h with }, rfl⟩
  | encControl => exact ⟨_, .encControl, { h with }, rfl⟩
  | encTelemetry => exact ⟨_, .encTelemetry, { h with }, rfl⟩
  | decode => exact ⟨_, .decode, { h with }, rfl⟩
  | pairStart hi hm => exact ⟨_, .pairStart hi hm, { h with peer := rfl, pair := rfl }, rfl⟩
  | pairStartAbsent hi => exact ⟨_, .pairStartAbsent hi, { h with peer := rfl, pair := rfl }, rfl⟩
  | pairStartIgnored hi hw => exact ⟨_, .pairStartIgnored hi hw, { h with }, rfl⟩
  | pairTimeout hw ha => exact ⟨_, .pairTimeout hw ha, { h with pair := rfl }, rfl⟩
  | pairTimeoutIgnored hn => exact ⟨_, .pairTimeoutIgnored hn, { h with }, rfl⟩
  | fastPath hw hb hs hf => exact ⟨_, .fastPath hw hb hs hf, { h with pair := rfl }, rfl⟩
  | bind hb hf hs => exact ⟨_, .bind hb hf hs, { h with peer := rfl, pair := rfl }, rfl⟩
  | pairBeaconIgnored hw hb => exact ⟨_, .pairBeaconIgnored hw hb, { h with }, rfl⟩
  | pairCancel hb => exact ⟨_, .pairCancel hb, { h with pair := rfl }, rfl⟩
  | pairCancelIgnored hb => exact ⟨_, .pairCancelIgnored hb, { h with }, rfl⟩
  | pairAccept => exact ⟨_, .pairAccept, { h with }, rfl⟩
  | observe => exact ⟨_, .observe, h.observe _, rfl⟩
  | healthRead =>
    have hcount : packetCount k = packetCount s.health := h.packetCount_eq
    have hdropped : s.health.dropped = k.dropped := h.dropped
    have horder : s.health.outOfOrder = k.outOfOrder := h.outOfOrder
    exact ⟨_, .healthRead, { h with }, by rw [hcount, hdropped, horder]⟩
  | beacon => exact ⟨_, .beacon, { h with }, rfl⟩
  | control => exact ⟨_, .control, { h with }, rfl⟩
  | telemetry => exact ⟨_, .telemetry, { h with }, rfl⟩

end Stale

/-- Settles O20: each way to complete keeps the relation and answers the same report. -/
theorem staleValuesAreNeverObservable : Obligations.StaleValuesAreNeverObservable := by
  intro i s t s' hst h
  obtain ⟨t', hc, hind, hout⟩ := (exec_cases h).keeps_indistinguishable hst
  exact ⟨t', exec_of_case hc, hind, hout⟩

end Sys2Proof.Machine
end

section
/-! Proofs of the family 20_memory.md: the frame slot changes whole, and only where R57 says. -/

namespace Sys2Proof.Machine

/-! ### The frame slot -/

/-- An edge keeps the slot, or ends the last channel: then the decoder waits and the slot is full of `chan` as it now stands (R126). -/
theorem EdgeCase.slot_eq_or {s u : State} {n w : Nat} (h : EdgeCase s n w u) :
    u.slot = s.slot ∨
      (s.ppm.state = .pulse ∧ numChannels ≤ s.ppm.channelIndex + 1 ∧ u.ppm.state = .waiting ∧ u.slot = ⟨u.ppm.chan, true⟩) := by
  cases h with
  | publish _ hs _ _ hi => exact .inr ⟨hs, hi, rfl, rfl⟩
  | _ => exact .inl rfl

/-- Settles O17: of the ways to complete, RESET, TAKE of a full slot and a publishing edge alone give another slot. -/
theorem slotChangesOnlyByPublicationTakeAndReset : Obligations.SlotChangesOnlyByPublicationTakeAndReset := by
  intro i s t h hne
  cases exec_cases h with
  | reset => exact .inl rfl
  | take hfull => exact .inr (.inl ⟨rfl, hfull, rfl⟩)
  | edge _ he =>
    have hpublish := he.slot_eq_or.resolve_left hne
    exact .inr (.inr ⟨_, rfl, hpublish⟩)
  | _ => exact absurd rfl hne

end Sys2Proof.Machine
end

section
/-! Proofs of the family 30_encoding.md: decoder and encoder are inverse to each other (R78 to R87), which operation words are
refused (R88), and what WAIT does (R91). -/

namespace Sys2Proof.Machine

/-! ### The decoder's parts -/

/-- An operand format of fixed length reads its operands exactly at that length (R86, R88). -/
@[simp] theorem fixedLength_eq_ok_iff {n : Nat} {w : List Byte} {i j : Instr} :
    fixedLength n w i = .ok j ↔ w.length = n ∧ i = j := by
  by_cases h : w.length = n <;> simp [fixedLength, h]

/-- The last test of the decoder passes exactly the well-formed instructions, unchanged. -/
@[simp] theorem checked_eq_ok_iff {i j : Instr} : checked i = .ok j ↔ i = j ∧ j.wf = true := by
  constructor
  · intro h
    cases hd : i.defect? with
    | none =>
      simp only [checked, hd] at h
      cases h
      exact ⟨rfl, by simp [Instr.wf, hd]⟩
    | some why => simp only [checked, hd] at h; cases h
  · rintro ⟨rfl, hw⟩
    have hd : i.defect? = none := by simpa [Instr.wf] using hw
    simp only [checked, hd]

/-- After an assigned opcode the decoder answers what the operands of its row are read as, if that is well formed. -/
theorem decodeOperation_code_cons_ok_iff {op : Opcode} {l : List Byte} {i : Instr} :
    decodeOperation (op.code :: l) = .ok i ↔ parseOperands op (op.code :: l) = .ok i ∧ i.wf = true := by
  simp only [decodeOperation, opcode?_code]
  cases parseOperands op (op.code :: l) with
  | error why => simp [Except.bind]
  | ok j => simp [Except.bind]

/-- DECODE's operands are read exactly where `len` counts the bytes that follow it (R86, R88). -/
theorem parseOperands_decode_ok_iff {w : List Byte} {i : Instr} :
    parseOperands .decode w = .ok i ↔ 2 ≤ w.length ∧ (read8 w 1).toNat + 2 = w.length ∧ .decode (w.drop 2) = i := by
  simp only [parseOperands]
  by_cases h2 : 2 ≤ w.length
  · have hsub : (read8 w 1).toNat + 2 = w.length ↔ (read8 w 1).toNat = w.length - 2 := by omega
    rw [if_neg (Nat.not_lt.mpr h2), hsub]
    by_cases hl : (read8 w 1).toNat = w.length - 2 <;> simp [h2, hl]
  · rw [if_pos (Nat.lt_of_not_le h2)]
    simp [h2]

/-- PAIR_START's operands are read exactly where `present` is 0 or 1 (R86, R88). -/
theorem parseOperands_pairStart_ok_iff {w : List Byte} {i : Instr} :
    parseOperands .pairStart w = .ok i ↔ w.length = 8 ∧
      (read8 w 1 = 0x00#8 ∧ .pairStart false (macAt w 2) = i ∨ read8 w 1 = 0x01#8 ∧ .pairStart true (macAt w 2) = i) := by
  simp only [parseOperands]
  by_cases hl : w.length = 8
  · by_cases h0 : read8 w 1 = 0x00#8
    · simp [hl, h0]
    · by_cases h1 : read8 w 1 = 0x01#8 <;> simp [hl, h0, h1]
  · simp [hl]

/-- A word that decodes starts with the opcode of some row (R87). -/
theorem exists_code_cons_of_decodeOperation {w : List Byte} {i : Instr} (h : decodeOperation w = .ok i) :
    ∃ (op : Opcode) (l : List Byte), w = op.code :: l := by
  cases w with
  | nil => cases h
  | cons b l =>
    cases ho : opcode? b with
    | none => simp only [decodeOperation, ho] at h; cases h
    | some op => exact ⟨op, l, by rw [code_of_opcode? ho]⟩

/-! ### Reading back what was laid out -/

/-- A peer address after byte 0 (R86). -/
theorem macAt_cons_toList (a : Byte) (m : Mac) (l : List Byte) : macAt (a :: (m.toList ++ l)) 1 = m := macAt_toList m l

/-- What stands after the six bytes of a peer address. -/
theorem read8_toList_append (m : Mac) (l : List Byte) (n : Nat) : read8 (m.toList ++ l) (n + 6) = read8 l n := by
  rw [mac_toList]; rfl

/-- R78's offsets read back the fields of a BEACON packet. -/
theorem decodePacket_beaconPacket (seq : U16) (f : Byte) (c : U16) :
    decodePacket (beaconPacket seq f c) = .beacon seq f c := by
  have hseq : read16 (beaconPacket seq f c) 1 = seq := read16_cons_le16 _ seq _
  have hsum : read16 (beaconPacket seq f c) 4 = c := u16_of_bytes c
  calc decodePacket (beaconPacket seq f c)
    _ = .beacon (read16 (beaconPacket seq f c) 1) f (read16 (beaconPacket seq f c) 4) := rfl
    _ = .beacon seq f c := by rw [hseq, hsum]

/-- R79's offsets read back the fields of a CONTROL packet. -/
theorem decodePacket_controlPacket (seq : U16) (p : ControlPayload) (c : U16) :
    decodePacket (controlPacket seq p c) = .control seq p c := by
  have hseq : read16 (controlPacket seq p c) 1 = seq := read16_cons_le16 _ seq _
  have hp : controlPayloadAt (controlPacket seq p c) = p := controlPayloadAt_controlBytes _ _ _ p (le16 c)
  have hsum : read16 (controlPacket seq p c) 19 = c := u16_of_bytes c
  calc decodePacket (controlPacket seq p c)
    _ = .control (read16 (controlPacket seq p c) 1) (controlPayloadAt (controlPacket seq p c))
          (read16 (controlPacket seq p c) 19) := rfl
    _ = .control seq p c := by rw [hseq, hp, hsum]

/-- R80's offsets read back the fields of a TELEMETRY packet. -/
theorem decodePacket_telemetryPacket (seq : U16) (p : TelemetryPayload) (c : U16) :
    decodePacket (telemetryPacket seq p c) = .telemetry seq p c := by
  have hseq : read16 (telemetryPacket seq p c) 1 = seq := read16_cons_le16 _ seq _
  have hp : telemetryPayloadAt (telemetryPacket seq p c) = p := telemetryPayloadAt_telemetryBytes _ _ _ p (le16 c)
  have hsum : read16 (telemetryPacket seq p c) 11 = c := u16_of_bytes c
  calc decodePacket (telemetryPacket seq p c)
    _ = .telemetry (read16 (telemetryPacket seq p c) 1) (telemetryPayloadAt (telemetryPacket seq p c))
          (read16 (telemetryPacket seq p c) 11) := rfl
    _ = .telemetry seq p c := by rw [hseq, hp, hsum]

/-- `present` and the address of PAIR_START read back (R86). -/
theorem parseOperands_pairStart (present : Bool) (mac : Mac) :
    parseOperands .pairStart (Opcode.pairStart.code :: (if present then 0x01#8 else 0x00#8) :: mac.toList) =
      .ok (.pairStart present mac) := by
  have hmac (a b : Byte) : macAt (a :: b :: mac.toList) 2 = mac :=
    List.append_nil mac.toList ▸ macAt_cons_toList b mac []
  rw [parseOperands_pairStart_ok_iff]
  cases present with
  | false => exact ⟨by simp, .inl ⟨rfl, by rw [hmac]⟩⟩
  | true => exact ⟨by simp, .inr ⟨rfl, by rw [hmac]⟩⟩

/-- DECODE's `len` and buffer read back, for a buffer whose length fits the `len` byte (R86). -/
theorem parseOperands_decode {b : List Byte} (h : b.length ≤ 255) :
    parseOperands .decode (Opcode.decode.code :: BitVec.ofNat 8 b.length :: b) = .ok (.decode b) := by
  have hlen : b.length % 256 = b.length := Nat.mod_eq_of_lt (by omega)
  exact parseOperands_decode_ok_iff.mpr ⟨by simp, by simp [hlen], rfl⟩

/-- The length bound that makes DECODE's operand encodable (R86). -/
theorem decode_wf_iff {b : List Byte} : (Instr.decode b).wf = true ↔ b.length ≤ 255 := by
  by_cases h : b.length ≤ 255 <;> simp [Instr.wf, Instr.defect?, h]

/-- A word whose operands are read as a well-formed instruction decodes to it. -/
theorem decodeInput_of_parseOperands {op : Opcode} {l : List Byte} {i : Instr} (hw : i.wf = true)
    (h : parseOperands op (op.code :: l) = .ok i) : decodeInput (.operation (op.code :: l)) = .ok i :=
  decodeOperation_code_cons_ok_iff.mpr ⟨h, hw⟩

/-- Settles O55: for each row, the operands are read back at the offsets they were laid out at. -/
theorem decodingAnEncodedInstructionGivesItBack : Obligations.DecodingAnEncodedInstructionGivesItBack := by
  intro i hw
  cases i with
  | reset | tick | rollover | take | now | pairTimeout | pairCancel | healthRead => rfl
  | edge t =>
    have ht := read32_cons_le32 Opcode.edge.code t []
    exact decodeInput_of_parseOperands hw (fixedLength_eq_ok_iff.mpr ⟨rfl, congrArg Instr.edge ht⟩)
  | elapsed since =>
    have ht := read32_cons_le32 Opcode.elapsed.code since []
    exact decodeInput_of_parseOperands hw (fixedLength_eq_ok_iff.mpr ⟨rfl, congrArg Instr.elapsed ht⟩)
  | encBeacon seq f =>
    have hseq := read16_cons_le16 Opcode.encBeacon.code seq [f]
    exact decodeInput_of_parseOperands hw (fixedLength_eq_ok_iff.mpr ⟨rfl, congrArg (Instr.encBeacon · f) hseq⟩)
  | encControl seq p =>
    have hseq := read16_cons_le16 Opcode.encControl.code seq (controlBytes p)
    have hp := controlPayloadAt_controlBytes Opcode.encControl.code (lowByte seq) (highByte seq) p []
    exact decodeInput_of_parseOperands hw (fixedLength_eq_ok_iff.mpr ⟨rfl, congrArg₂ Instr.encControl hseq hp⟩)
  | encTelemetry seq p =>
    have hseq := read16_cons_le16 Opcode.encTelemetry.code seq (telemetryBytes p)
    have hp := telemetryPayloadAt_telemetryBytes Opcode.encTelemetry.code (lowByte seq) (highByte seq) p []
    exact decodeInput_of_parseOperands hw (fixedLength_eq_ok_iff.mpr ⟨rfl, congrArg₂ Instr.encTelemetry hseq hp⟩)
  | decode b => exact decodeInput_of_parseOperands hw (parseOperands_decode (decode_wf_iff.mp hw))
  | pairStart present mac => exact decodeInput_of_parseOperands hw (parseOperands_pairStart present mac)
  | pairBeacon src f =>
    have hsrc := macAt_cons_toList Opcode.pairBeacon.code src [f]
    have hf : read8 (Opcode.pairBeacon.code :: (src.toList ++ [f])) 7 = f := read8_toList_append src [f] 0
    exact decodeInput_of_parseOperands hw
      (fixedLength_eq_ok_iff.mpr ⟨by simp, congrArg₂ Instr.pairBeacon hsrc hf⟩)
  | pairAccept src =>
    have hsrc := macAt_cons_toList Opcode.pairAccept.code src []
    rw [List.append_nil] at hsrc
    exact decodeInput_of_parseOperands hw (fixedLength_eq_ok_iff.mpr ⟨by simp, congrArg Instr.pairAccept hsrc⟩)
  | observe seq =>
    have hseq := read16_cons_le16 Opcode.observe.code seq []
    exact decodeInput_of_parseOperands hw (fixedLength_eq_ok_iff.mpr ⟨rfl, congrArg Instr.observe hseq⟩)
  | beacon seq f c => exact congrArg Except.ok (decodePacket_beaconPacket seq f c)
  | control seq p c => exact congrArg Except.ok (decodePacket_controlPacket seq p c)
  | telemetry seq p c => exact congrArg Except.ok (decodePacket_telemetryPacket seq p c)

/-! ### Laying out what was read -/

/-- A word of known length is its first byte followed by the bytes read at the offsets from 1 on. -/
theorem cons_eq_of_reads {n : Nat} {b : Byte} {l operands : List Byte} (hl : (b :: l).length = n + 1)
    (h : operands = (List.range n).map fun j => read8 (b :: l) (j + 1)) : b :: operands = b :: l :=
  congrArg (b :: ·) (h.trans (eq_map_read8 n l (Nat.succ.inj hl)).symm)

/-- Laying out a Control payload that was read gives back its sixteen bytes (R79). -/
theorem controlBytes_controlPayloadAt (w : List Byte) :
    controlBytes (controlPayloadAt w) = (List.range 16).map fun j => read8 w (j + 3) := by
  simp only [controlBytes, controlPayloadAt, Vector.getElem_mk, List.getElem_toArray, List.getElem_cons_zero,
    List.getElem_cons_succ, le16_read16]
  rfl

/-- Laying out a Telemetry payload that was read gives back its eight bytes (R80). -/
theorem telemetryBytes_telemetryPayloadAt (w : List Byte) :
    telemetryBytes (telemetryPayloadAt w) = (List.range 8).map fun j => read8 w (j + 3) := by
  simp only [telemetryBytes, telemetryPayloadAt, le16_read16]
  rfl

/-- A DECODE word is the encoding of the buffer read from it: its `len` byte is the buffer's length. -/
theorem encode_decode_of_len {l : List Byte} (h2 : 2 ≤ (Opcode.decode.code :: l).length)
    (hl : (read8 (Opcode.decode.code :: l) 1).toNat + 2 = (Opcode.decode.code :: l).length) :
    encode (.decode ((Opcode.decode.code :: l).drop 2)) = .operation (Opcode.decode.code :: l) := by
  cases l with
  | nil => exact absurd h2 (by decide)
  | cons n b =>
    have hn : n.toNat = b.length := Nat.add_right_cancel hl
    have hlen : BitVec.ofNat 8 b.length = n := by rw [← hn, BitVec.ofNat_toNat, BitVec.setWidth_eq]
    exact congrArg (fun x => Input.operation (Opcode.decode.code :: x :: b)) hlen

/-- The word that a row's operands were read from is the encoding of what they were read as. -/
theorem encode_of_parseOperands {op : Opcode} {l : List Byte} {i : Instr}
    (h : parseOperands op (op.code :: l) = .ok i) : encode i = .operation (op.code :: l) := by
  cases op with
  | reset | tick | rollover | take | now | pairTimeout | pairCancel | healthRead =>
    obtain ⟨hl, rfl⟩ := fixedLength_eq_ok_iff.mp h
    exact congrArg Input.operation (cons_eq_of_reads hl rfl)
  | edge | elapsed =>
    obtain ⟨hl, rfl⟩ := fixedLength_eq_ok_iff.mp h
    exact congrArg Input.operation (cons_eq_of_reads hl (le32_read32 _ 1))
  | encBeacon =>
    obtain ⟨hl, rfl⟩ := fixedLength_eq_ok_iff.mp h
    exact congrArg Input.operation (cons_eq_of_reads hl (by rw [le16_read16]; rfl))
  | encControl =>
    obtain ⟨hl, rfl⟩ := fixedLength_eq_ok_iff.mp h
    exact congrArg Input.operation (cons_eq_of_reads hl (by rw [le16_read16, controlBytes_controlPayloadAt]; rfl))
  | encTelemetry =>
    obtain ⟨hl, rfl⟩ := fixedLength_eq_ok_iff.mp h
    exact congrArg Input.operation (cons_eq_of_reads hl (by rw [le16_read16, telemetryBytes_telemetryPayloadAt]; rfl))
  | decode =>
    obtain ⟨h2, hl, rfl⟩ := parseOperands_decode_ok_iff.mp h
    exact encode_decode_of_len h2 hl
  | pairStart =>
    obtain ⟨hl, ⟨hp, rfl⟩ | ⟨hp, rfl⟩⟩ := parseOperands_pairStart_ok_iff.mp h
    all_goals exact congrArg Input.operation (cons_eq_of_reads hl (congrArg (· :: _) hp.symm))
  | pairBeacon | pairAccept =>
    obtain ⟨hl, rfl⟩ := fixedLength_eq_ok_iff.mp h
    exact congrArg Input.operation (cons_eq_of_reads hl rfl)
  | observe =>
    obtain ⟨hl, rfl⟩ := fixedLength_eq_ok_iff.mp h
    exact congrArg Input.operation (cons_eq_of_reads hl (le16_read16 _ 1))

/-- Settles O56: a word that decodes is an opcode and the operands it was read from, and the decoder's last test is
well-formedness. -/
theorem everyOperationWordIsTheEncodingOfItsOperation : Obligations.EveryOperationWordIsTheEncodingOfItsOperation := by
  intro w i h
  obtain ⟨op, l, rfl⟩ := exists_code_cons_of_decodeOperation h
  obtain ⟨hp, hw⟩ := decodeOperation_code_cons_ok_iff.mp h
  exact ⟨encode_of_parseOperands hp, hw⟩

/-! ### Which words are refused -/

/-- No operation stops but by R88's refusal: an instruction that is not admissible is refused as ill-formed (R16). -/
theorem exec_of_not_admissible {i : Instr} {s : State} (h : ¬ i.admissible s.cfg = true) :
    ∃ why, exec i s = .refused (.illFormed why) := by
  cases i with
  | edge t => exact ⟨_, if_neg fun ht => h (decide_eq_true ht)⟩
  | elapsed since => exact ⟨_, if_neg fun ht => h (decide_eq_true ht)⟩
  | encBeacon seq f => exact ⟨_, if_neg fun hf => h (encBeacon_wf_iff.mpr hf)⟩
  | pairStart present mac =>
    cases present with
    | false =>
      have hm : mac ≠ zeroMac := fun hm => h (pairStart_absent_wf_iff.mpr hm)
      exact ⟨.absentMacNotZero, by simp [exec, execPairStart, refuse, hm]⟩
    | true =>
      have hm : mac = broadcast := by
        by_contra hm
        exact h (pairStart_present_wf_iff.mpr hm)
      exact ⟨.persistedMacBroadcast, by simp [exec, execPairStart, refuse, hm]⟩
  | _ => exact absurd rfl h

/-- A word of a fixed-length format runs where its length is right and its operands are admissible. -/
theorem exists_fixedLength_ok_iff {c : Config} {n : Nat} {w : List Byte} {i : Instr} :
    (∃ j, fixedLength n w i = .ok j ∧ j.wf = true ∧ j.admissible c = true) ↔
      w.length = n ∧ i.wf = true ∧ i.admissible c = true := by
  simp only [fixedLength_eq_ok_iff, and_assoc, exists_and_left, exists_eq_left']

/-- The words R88 does not refuse are those whose operands are read as a well-formed instruction, with the operand of EDGE and
ELAPSED below MODULUS. -/
theorem not_wordRefused_code_cons_iff {c : Config} {op : Opcode} {l : List Byte} :
    ¬ wordRefused c (op.code :: l) ↔
      ∃ i, parseOperands op (op.code :: l) = .ok i ∧ i.wf = true ∧ i.admissible c = true := by
  cases op with
  | edge | elapsed =>
    refine Iff.trans ?_ exists_fixedLength_ok_iff.symm
    show ¬ (_ ∨ c.modulus ≤ _) ↔ _ ∧ true = true ∧ decide (_ < c.modulus) = true
    simp
  | encBeacon =>
    refine Iff.trans ?_ exists_fixedLength_ok_iff.symm
    simp only [Instr.admissible, encBeacon_wf_iff, reservedClear_iff, and_self]
    show ¬ (_ ∨ _ ≠ _) ↔ _
    simp
  | decode =>
    have hbyte := (read8 (Opcode.decode.code :: l) 1).isLt
    simp only [parseOperands_decode_ok_iff, and_assoc, exists_and_left, exists_eq_left', decode_wf_iff, List.length_drop,
      Instr.admissible, and_true]
    show ¬ (_ < 2 ∨ _ + 2 ≠ _) ↔ _
    omega
  | pairStart =>
    simp only [parseOperands_pairStart_ok_iff, and_assoc, exists_and_left, or_and_right, exists_or, exists_eq_left',
      pairStart_present_wf_iff, pairStart_absent_wf_iff, Instr.admissible, and_self]
    show ¬ (_ ∨ _ ∨ _ ∨ _) ↔ _
    generalize read8 (Opcode.pairStart.code :: l) 1 = present
    by_cases h0 : present = 0x00#8
    · simp [h0]
    · by_cases h1 : present = 0x01#8 <;> simp [h0, h1]
  | _ => exact not_not.trans (exists_fixedLength_ok_iff.trans (and_iff_left ⟨rfl, rfl⟩)).symm

/-- A word that R88 does not refuse starts with the opcode of some row. -/
theorem exists_code_cons_of_not_wordRefused {c : Config} {w : List Byte} (h : ¬ wordRefused c w) :
    ∃ (op : Opcode) (l : List Byte), w = op.code :: l := by
  cases w with
  | nil => exact absurd trivial h
  | cons b l =>
    cases ho : opcode? b with
    | none => exact absurd (by simp [wordRefused, ho]) h
    | some op => exact ⟨op, l, by rw [code_of_opcode? ho]⟩

/-- The words R88 does not refuse are those that decode to an admissible operation. -/
theorem not_wordRefused_iff {c : Config} {w : List Byte} :
    ¬ wordRefused c w ↔ ∃ i, decodeOperation w = .ok i ∧ i.admissible c = true := by
  constructor
  · intro h
    obtain ⟨op, l, rfl⟩ := exists_code_cons_of_not_wordRefused h
    obtain ⟨i, hp, hw, ha⟩ := not_wordRefused_code_cons_iff.mp h
    exact ⟨i, decodeOperation_code_cons_ok_iff.mpr ⟨hp, hw⟩, ha⟩
  · rintro ⟨i, hd, ha⟩
    obtain ⟨op, l, rfl⟩ := exists_code_cons_of_decodeOperation hd
    obtain ⟨hp, hw⟩ := decodeOperation_code_cons_ok_iff.mp hd
    exact not_wordRefused_code_cons_iff.mpr ⟨i, hp, hw, ha⟩

/-- Settles O52: a word is an unassigned opcode, or a row's opcode whose operands are read as an admissible instruction or not. -/
theorem exactlyTheIllFormedWordsAreRefused : Obligations.ExactlyTheIllFormedWordsAreRefused := by
  intro s w rest h
  have hrun := not_wordRefused_iff (c := s.cfg) (w := w)
  constructor
  · intro hw
    cases hd : decodeOperation w with
    | error why => exact ⟨why, step_of_illFormed h hd⟩
    | ok i =>
      rw [step_of_decoded h hd]
      exact exec_of_not_admissible fun ha => hrun.mpr ⟨i, hd, ha⟩ hw
  · intro hw
    obtain ⟨i, hd, ha⟩ := hrun.mp hw
    rw [step_of_decoded h hd]
    exact (admissibleInstructionsComplete i _).mp ha

/-! ### Words written out, and packets -/

/-- Settles O58: each word is the encoding of its operation, so decoding gives the operation back. -/
theorem wordsOfTheSpecDecodeAsWritten : Obligations.WordsOfTheSpecDecodeAsWritten :=
  have h := decodingAnEncodedInstructionGivesItBack
  ⟨h (.edge 13000#32) rfl, h (.pairStart true #v[0x02, 0x00, 0x00, 0x00, 0x00, 0x0A]) (by decide),
    h (.encBeacon 0x1234#16 0x82#8) (by decide), h (.observe 7#16) rfl, h .take rfl,
    h (.beacon 0x1234#16 0x82#8 0xB232#16) rfl⟩

/-- Settles O27: the packet rows have DECODE's meaning on the packet's bytes (log 5). -/
theorem wirePacketsGoThroughDecode : Obligations.WirePacketsGoThroughDecode := by
  intro s seq c f p q
  exact ⟨⟨receive (beaconPacket seq f c) s, rfl, rfl⟩, ⟨receive (controlPacket seq p c) s, rfl, rfl⟩,
    ⟨receive (telemetryPacket seq q c) s, rfl, rfl⟩⟩

/-- A u16 written over the last two bytes replaces those two alone (R51). -/
theorem write16_append_le16 (b : List Byte) (x v : U16) : write16 (b ++ le16 x) b.length v = b ++ le16 v := by
  simp [write16, write8, le16]

/-- Storing the checksum replaces the two bytes of the checksum field alone (R152). -/
theorem withChecksum_append_le16 (c : Config) (b : List Byte) (x : U16) :
    withChecksum c (b ++ le16 x) = b ++ le16 (checksumOf c (b ++ le16 x)) := by
  have hl : (b ++ le16 x).length - 2 = b.length := by simp
  rw [withChecksum, hl, write16_append_le16]

/-- A packet is its type code, a body, and a checksum; R86 builds the ENC_ word from the same body. -/
theorem exists_body_of_packet (c : Config) (p : Packet) : ∃ (b : Byte) (body : List Byte) (sum : U16),
    encodePacket c p = b :: (body ++ le16 sum) ∧ encode (encodeOperation p) = .operation ((b + 0x20#8) :: body) := by
  cases p with
  | beacon seq tx rx bind =>
    exact ⟨_, le16 seq ++ [roleFlagsOf tx rx bind], _, withChecksum_append_le16 c (_ :: _) 0#16, rfl⟩
  | control seq p => exact ⟨_, le16 seq ++ controlBytes p, _, withChecksum_append_le16 c (_ :: _) 0#16, rfl⟩
  | telemetry seq p => exact ⟨_, le16 seq ++ telemetryBytes p, _, withChecksum_append_le16 c (_ :: _) 0#16, rfl⟩

/-- Settles O57: leaving out the last two bytes of a packet leaves its type code and body. -/
theorem encWordIsThePacketWithoutItsChecksum : Obligations.EncWordIsThePacketWithoutItsChecksum := by
  intro c p
  obtain ⟨b, body, sum, hpacket, hword⟩ := exists_body_of_packet c p
  refine ⟨b, body ++ le16 sum, hpacket, ?_⟩
  simp [hword]

/-! ### WAIT -/

/-- A tick below the wrap adds one to the count (R106). -/
theorem exec_tick_of_lt {s : State} (h : s.clk.count + 1 < s.cfg.modulus) :
    exec .tick s = .next { s with clk := ⟨s.clk.count + 1⟩, out := Report.fresh } := by
  have hmod : (s.clk.count + 1) % s.cfg.modulus = s.clk.count + 1 := Nat.mod_eq_of_lt h
  have hc := exec_of_case (ExecCase.tick (s := s) (by omega))
  rwa [hmod] at hc

/-- `d` ticks below the wrap add `d` to the count (R91, R106). -/
theorem runInstrs_replicate_tick {s : State} {d : Nat} (h : s.clk.count + d < s.cfg.modulus) :
    ∃ r, runInstrs (List.replicate d .tick) s = .next { s with clk := ⟨s.clk.count + d⟩, out := r } := by
  induction d generalizing s with
  | zero => exact ⟨s.out, rfl⟩
  | succ d ih =>
    have htick := exec_tick_of_lt (s := s) (by omega)
    obtain ⟨r, hr⟩ := ih (s := { s with clk := ⟨s.clk.count + 1⟩, out := Report.fresh })
      (show s.clk.count + 1 + d < s.cfg.modulus by omega)
    refine ⟨r, ?_⟩
    simp only [List.replicate_succ, runInstrs, htick, hr, Nat.add_assoc, Nat.add_comm 1 d]

/-- A run of one operation is that operation. -/
theorem runInstrs_singleton (i : Instr) (s : State) : runInstrs [i] s = exec i s := by
  simp only [runInstrs]
  cases exec i s <;> rfl

/-- Settles O59: the wait leaves the clock at `count + d`, below the wrap, and that is the operand EDGE_AFTER hands over. -/
theorem waitAddsItsTicks : Obligations.WaitAddsItsTicks := by
  intro s d h _
  obtain ⟨r, hr⟩ := runInstrs_replicate_tick h
  refine ⟨r, hr, ?_⟩
  calc runInstrs (expandPseudo s.cfg s.clk.count (.edgeAfter d)) s
    _ = runInstrs [edgeAt ((s.clk.count + d) % s.cfg.modulus)] { s with clk := ⟨s.clk.count + d⟩, out := r } :=
        runInstrs_append _ _ _ _ hr
    _ = exec (.edge (BitVec.ofNat 32 (s.clk.count + d))) { s with clk := ⟨s.clk.count + d⟩, out := r } := by
        rw [runInstrs_singleton, edgeAt, Nat.mod_eq_of_lt h]

end Sys2Proof.Machine
end

section
/-! Proofs of the family 40_edgeclock.md: the tick and its wrap (R106, R110), the two reads of the clock (R107, R109), and the
forward distance (R108, R112). -/

namespace Sys2Proof.Machine

/-! ### Counting -/

/-- A tick that reaches MODULUS wraps: the count becomes 0 and the rollover effect is part of the operation (R110). -/
theorem exec_tick_of_wrap {s : State} (h : s.clk.count + 1 = s.cfg.modulus) :
    exec .tick s = .next { s with
      clk := ⟨0⟩
      ppm := { s.ppm with state := .waiting }
      out := ⟨if s.ppm.state = .waiting then .done else .frameAbort .rollover, .none, []⟩ } :=
  have hmod : (s.clk.count + 1) % s.cfg.modulus = 0 := by rw [h, Nat.mod_self]
  exec_of_case (.tickWrap hmod)

/-- Settles O3: the two sides of the wrap. -/
theorem tickCountsAndRollsOver : Obligations.TickCountsAndRollsOver :=
  ⟨rfl, fun _ => exec_tick_of_lt, fun _ => exec_tick_of_wrap⟩

/-- Settles O4: R41 (a) keeps the count below MODULUS, so it fits the u32. -/
theorem nowReturnsTheCount : Obligations.NowReturnsTheCount := by
  refine ⟨rfl, fun s => ⟨exec_of_case .now, fun hinv => ?_⟩⟩
  obtain ⟨-, hmax, -⟩ := hinv.config
  exact clockOperand_toNat hmax hinv.count

/-! ### The forward distance -/

/-- The distance is the difference over the integers, with MODULUS added where `since` is ahead of `now` (R108). -/
theorem elapsed_eq_sub_add {m now since : Nat} (hs : since < m) :
    (elapsed m now since : Int) = now - since + if now ≥ since then 0 else (m : Int) := by
  unfold elapsed
  split <;> omega

/-- The distance is the residue of the difference: MODULUS added once changes no residue, and the distance is below it (R108). -/
theorem elapsed_eq_emod {m now since : Nat} (hn : now < m) (hs : since < m) :
    (elapsed m now since : Int) = ((now : Int) - since) % m := by
  have hlt : (elapsed m now since : Int) < m := Int.ofNat_lt.mpr (elapsed_lt hn hs)
  calc (elapsed m now since : Int)
    _ = (elapsed m now since : Int) % m := (Int.emod_eq_of_lt (Int.natCast_nonneg _) hlt).symm
    _ = ((now : Int) - since) % m := by
        rw [elapsed_eq_sub_add hs]
        split
        · rw [Int.add_zero]
        · rw [Int.add_emod_right]

/-- No time passes between equal readings (R108). -/
theorem elapsed_self (m t : Nat) : elapsed m t t = 0 := by
  rw [elapsed, if_pos (Nat.le_refl t), Nat.sub_self]

/-- Settles O5: the formula is the definition of `elapsed`. -/
theorem elapsedIsTheForwardDistance : Obligations.ElapsedIsTheForwardDistance := by
  intro m now since hn hs
  refine ⟨rfl, elapsed_lt hn hs, elapsed_eq_emod hn hs, ?_⟩
  rintro rfl
  exact elapsed_self m now

/-- Settles O6: whole turns of the clock leave its reading alone, and what is left of D is below MODULUS. -/
theorem widthIsTheTrueTimeModuloModulus : Obligations.WidthIsTheTrueTimeModuloModulus := by
  intro m last d hl
  have hd : d % m < m := Nat.mod_lt d (by omega)
  rw [← Nat.add_mod_mod, elapsed_add_mod hl hd]

/-- ELAPSED refuses an operand that is not below MODULUS (R88, R109). -/
theorem exec_elapsed_of_le {s : State} {since : U32} (h : s.cfg.modulus ≤ since.toNat) :
    exec (.elapsed since) s = .refused (.illFormed .operandNotBelowModulus) :=
  if_neg (Nat.not_lt.mpr h)

/-- Settles O7: the distance is below MODULUS, so it fits the u32 as the count does. -/
theorem elapsedReturnsTheDistance : Obligations.ElapsedReturnsTheDistance := by
  refine fun s since => ⟨rfl, fun hm => exec_of_case (.elapsed hm), exec_elapsed_of_le, fun hinv hm => ?_⟩
  obtain ⟨-, hmax, -⟩ := hinv.config
  exact clockOperand_toNat hmax (elapsed_lt hinv.count hm)

end Sys2Proof.Machine
end

section
/-! Proofs of the family 41_ppm_decoder.md: what one edge does by width and state (R121 to R127, R270), ROLLOVER and TAKE (R129,
R130), whole frames and partial ones (R134), sound configurations (R268), and the invariants over every step (R41). -/

namespace Sys2Proof.Machine

/-! ### Every step keeps the invariants -/

section Invariants

variable {s t u : State} {i : Instr} {n w : Nat}

/-- A width that is no sync pulse fits the bound on the gap width, cut to 32 bits or not (R25). -/
theorem Inv.gapWidth_le (h : Inv s) (hw : w ≤ s.cfg.syncThreshold) :
    (if s.cfg.widthMode = .gapPlusPulse then BitVec.ofNat 32 w else s.ppm.gapWidth).toNat ≤ s.cfg.syncThreshold := by
  split
  · exact (BitVec.toNat_ofNat w 32 ▸ Nat.mod_le _ _).trans hw
  · exact h.gapBound

/-- An edge below MODULUS keeps R41: a pulse ends with the index below N in Gap and at most N in Waiting, and a gap width is written
only below the sync threshold and only in mode GAP_PLUS_PULSE. -/
theorem EdgeCase.keeps_inv (h : EdgeCase s n w u) (hn : n < s.cfg.modulus) (hinv : Inv s) : Inv u := by
  cases h with
  | sync => exact { hinv with lastEdge := hn, indexBound := Nat.zero_le _, indexInFrame := fun _ => Nat.zero_lt_succ 8 }
  | waiting _ hs => exact { hinv with lastEdge := hn }
  | gapShort | pulseShort | overflow => exact { hinv with lastEdge := hn, indexInFrame := fun hne => absurd rfl hne }
  | gap hw hs =>
    exact { hinv with
      lastEdge := hn
      indexInFrame := fun _ => hinv.indexInFrame (by simp [hs])
      gapBound := hinv.gapWidth_le hw
      gapUnused := fun (hm : s.cfg.widthMode = .pulseOnly) => by simpa [hm] using hinv.gapUnused hm }
  | store _ _ _ _ hi => exact { hinv with lastEdge := hn, indexBound := hi.le, indexInFrame := fun _ => hi }
  | publish _ hs =>
    have hlt := hinv.indexInFrame (by simp [hs])
    exact { hinv with lastEdge := hn, indexBound := hlt, indexInFrame := fun hne => absurd rfl hne }

/-- Every way to complete keeps R41; the timer is armed only with Waiting entered, and PAIR_CANCEL finds it off. -/
theorem ExecCase.keeps_inv (h : ExecCase s i t) (hinv : Inv s) : Inv t := by
  have hpos : 0 < s.cfg.modulus := hinv.count.pos
  cases h with
  | reset => exact { inv_resetWith hinv.config with }
  | tick => exact { hinv with count := Nat.mod_lt _ hpos }
  | tickWrap => exact { hinv with count := hpos, indexInFrame := fun hne => absurd rfl hne }
  | rollover => exact { hinv with indexInFrame := fun hne => absurd rfl hne }
  | edge hm he => exact he.keeps_inv hm hinv
  | pairStart => exact { hinv with timer := fun _ => rfl, unbound := nofun }
  | pairStartAbsent => exact { hinv with timer := fun _ => rfl, unbound := fun _ => rfl }
  | pairTimeout | fastPath => exact { hinv with timer := nofun }
  | bind => exact { hinv with timer := nofun, unbound := nofun }
  | pairCancel hb => exact { hinv with timer := fun ha => by simp [hinv.timer ha] at hb }
  | _ => exact { hinv with }

end Invariants

/-- Settles O45: waiting changes nothing, and the operation a step runs starts from the same state with an input less. -/
theorem everyStepKeepsTheInvariants : Obligations.EveryStepKeepsTheInvariants := by
  intro s t hinv h
  obtain ⟨-, rfl⟩ | ⟨x, rest, i, -, -, hc⟩ := step_cases h
  · exact hinv
  · exact hc.keeps_inv { hinv with }

/-! ### Which edges abort a frame -/

section Aborts

variable {s t u : State} {i : Instr} {n w : Nat} {cause : AbortCause}

/-- The report of DECODE is no frame abort. -/
theorem decodeReport_outcome_ne_frameAbort (r : DecodeResult) : (decodeReport r).outcome ≠ .frameAbort cause := by
  cases r <;> simp [decodeReport]

/-- A sync pulse's outcome is no frame abort: it is SyncDiscard where it drops a frame (R122). -/
theorem syncOutcome_ne_frameAbort (p : PpmState) :
    (if p = .waiting then OpOutcome.done else .syncDiscard) ≠ .frameAbort cause := by
  split <;> nofun

/-- R127's plausibility test: an edge aborts exactly where it ends a gap or a pulse too short, or a value too large. -/
theorem EdgeCase.frameAbort_iff (h : EdgeCase s n w u) :
    (∃ cause, u.out.outcome = .frameAbort cause) ↔
      w ≤ s.cfg.syncThreshold ∧
        ((s.ppm.state = .gap ∧ w < s.cfg.minGap) ∨
          (s.ppm.state = .pulse ∧ (w < s.cfg.minPulse ∨ 65535 < channelValue s.cfg s.ppm.gapWidth w))) := by
  cases h with
  | sync hw =>
    exact iff_of_false (fun ⟨_, ha⟩ => syncOutcome_ne_frameAbort _ ha) fun ⟨hle, _⟩ => absurd hw (Nat.not_lt.mpr hle)
  | waiting _ hs => exact iff_of_false nofun (by simp [hs])
  | gapShort hle hs hg => exact iff_of_true ⟨_, rfl⟩ ⟨hle, .inl ⟨hs, hg⟩⟩
  | gap _ hs hg => exact iff_of_false nofun (by simp [hs, hg])
  | pulseShort hle hs hp => exact iff_of_true ⟨_, rfl⟩ ⟨hle, .inr ⟨hs, .inl hp⟩⟩
  | overflow hle hs _ hv => exact iff_of_true ⟨_, rfl⟩ ⟨hle, .inr ⟨hs, .inr hv⟩⟩
  | store _ hs hp hv | publish _ hs hp hv => exact iff_of_false nofun (by simp [hs, hp, hv])

/-- An abort writes nothing but the decoder's state, beside the `last_edge` of every edge (R127). -/
theorem EdgeCase.eq_of_frameAbort (h : EdgeCase s n w u) (ha : u.out.outcome = .frameAbort cause) :
    u = { s with ppm := { s.ppm with lastEdge := n, state := .waiting }, out := ⟨.frameAbort cause, .none, []⟩ } := by
  cases h with
  | sync => exact absurd ha (syncOutcome_ne_frameAbort _)
  | gapShort | pulseShort | overflow => cases ha; rfl
  | waiting | gap | store | publish => cases ha

/-- A value overflows only at an edge that is no sync pulse and ends a pulse (R125, R128). -/
theorem EdgeCase.of_valueOverflow (h : EdgeCase s n w u) (ha : u.out.outcome = .frameAbort .valueOverflow) :
    w ≤ s.cfg.syncThreshold ∧ 65535 < channelValue s.cfg s.ppm.gapWidth w := by
  cases h with
  | sync => exact absurd ha (syncOutcome_ne_frameAbort _)
  | overflow hle _ _ hv => exact ⟨hle, hv⟩
  | _ => cases ha

/-- No operation but EDGE ends in ValueOverflow. -/
theorem ExecCase.edge_of_valueOverflow (h : ExecCase s i t) (ha : t.out.outcome = .frameAbort .valueOverflow) :
    ∃ v : U32, EdgeCase s v.toNat (Machine.elapsed s.cfg.modulus v.toNat s.ppm.lastEdge) t := by
  cases h with
  | edge _ he => exact ⟨_, he⟩
  | tickWrap | rollover => dsimp only at ha; split at ha <;> cases ha
  | decode | beacon | control | telemetry => exact absurd ha (decodeReport_outcome_ne_frameAbort _)
  | _ => cases ha

end Aborts

/-- Settles O14: the value compared is the one that the edge would store. -/
theorem frameAbortsExactlyWhenImplausible : Obligations.FrameAbortsExactlyWhenImplausible := by
  intro s u t h
  cases exec_cases h with
  | edge _ he =>
    have habort := he.frameAbort_iff
    rw [channelValue_eq] at habort
    exact ⟨habort, fun _ => he.eq_of_frameAbort⟩

/-! ### Runs of edges: whole frames and partial ones -/

/-- The values that the channels of a run of pairs are given (R134 (a)). -/
def pairValues (c : Config) (pairs : List (Nat × Nat)) : List U16 :=
  pairs.map fun gp => BitVec.ofNat 16 (pairValue c gp.1 gp.2)

@[simp] theorem pairValues_nil (c : Config) : pairValues c [] = [] := rfl

@[simp] theorem pairValues_cons (c : Config) (g p : Nat) (pairs : List (Nat × Nat)) :
    pairValues c ((g, p) :: pairs) = BitVec.ofNat 16 (pairValue c g p) :: pairValues c pairs := rfl

@[simp] theorem pairValues_length (c : Config) (pairs : List (Nat × Nat)) : (pairValues c pairs).length = pairs.length :=
  List.length_map _

/-- Since a sync pulse, found with the slot at `x`, the channels `vals` have been stored: fewer than N, and the next Gap runs with
the slot as it was; or all N, and they are published. -/
structure FrameSoFar (c : Config) (x : Slot) (vals : List U16) (s : State) : Prop where
  cfg : s.cfg = c
  lastEdge : s.ppm.lastEdge < c.modulus
  chan : s.ppm.chan.toList.take vals.length = vals
  partly : vals.length < numChannels → s.ppm.state = .gap ∧ s.ppm.channelIndex = vals.length ∧ s.slot = x
  whole : vals.length = numChannels → s.ppm.state = .waiting ∧ s.slot = ⟨s.ppm.chan, true⟩

/-- The channels stored so far, after one more is stored behind them. -/
theorem take_succ_toList_set (f : ChannelFrame) (n : Nat) (v : U16) (h : n < numChannels) :
    (f.set n v h).toList.take (n + 1) = f.toList.take n ++ [v] := by
  have hlen : n < f.toList.length := by simpa using h
  rw [Vector.toList_set, List.take_succ_eq_append_getElem (by simpa using h), List.getElem_set_self, List.take_set_of_le le_rfl]

/-- A run whose first operation completes goes on from there. -/
theorem runInstrs_cons {i : Instr} {is : List Instr} {s t : State} (h : exec i s = .next t) :
    runInstrs (i :: is) s = runInstrs is t := by
  simp only [runInstrs, h]

section Frame

variable {c : Config} {x : Slot} {vals : List U16} {s : State}

/-- The sync edge starts a frame with no channel stored (R122). -/
theorem exec_syncEdge {t : U32} (ht : t.toNat < s.cfg.modulus)
    (hs : s.cfg.syncThreshold < elapsed s.cfg.modulus t.toNat s.ppm.lastEdge) :
    ∃ u, exec (.edge t) s = .next u ∧ u.ppm.lastEdge = t.toNat ∧ FrameSoFar s.cfg s.slot [] u :=
  ⟨_, exec_of_case (.edge ht (.sync hs)), rfl, rfl, ht, rfl, fun _ => ⟨rfl, rfl, rfl⟩, nofun⟩

/-- The gap edge and the pulse edge of one plausible channel: the first leaves the slot alone, the second stores the value. -/
theorem FrameSoFar.exec_pair (h : FrameSoFar c x vals s) (hc : c.wf) (hm : c.syncThreshold < c.modulus)
    (hn : vals.length < numChannels) {g p : Nat} (hp : PlausiblePair c g p) :
    ∃ u v, exec (edgeAt ((s.ppm.lastEdge + g) % c.modulus)) s = .next u ∧ u.slot = x ∧
      exec (edgeAt ((s.ppm.lastEdge + g + p) % c.modulus)) u = .next v ∧
      v.ppm.lastEdge = (s.ppm.lastEdge + g + p) % c.modulus ∧
      FrameSoFar c x (vals ++ [BitVec.ofNat 16 (pairValue c g p)]) v := by
  obtain ⟨rfl, hl, hchan, hpart, -⟩ := h
  obtain ⟨hs, hi, rfl⟩ := hpart hn
  have hlt (d : Nat) : d % s.cfg.modulus < s.cfg.modulus := Nat.mod_lt _ hl.pos
  obtain ⟨u, hu, hucfg, huslot, hus, hul, hui, huchan, hug⟩ := exec_gapEdge s _ g p hc hm hs rfl hl hp
  rw [hi] at hui
  obtain ⟨v, hv, hvcfg, hvl, hvi, hvchan, hvpart, hvwhole⟩ :=
    exec_pulseEdge u _ g p (hucfg ▸ hc) (hucfg ▸ hm) hus hul (hucfg.symm ▸ hlt _) (hucfg ▸ hp) (hucfg ▸ hug) (hui ▸ hn)
  rw [hucfg, Nat.mod_add_mod] at hv hvl
  simp only [hucfg, huchan, hui] at hvcfg hvi hvchan hvpart hvwhole
  refine ⟨u, v, hu, huslot, hv, hvl, hvcfg, hvl ▸ hlt _, ?_, ?_, ?_⟩
  · rw [hvchan, List.length_append, List.length_singleton, take_succ_toList_set, hchan]
  · intro hlen
    obtain ⟨hgap, hslot⟩ := hvpart (by simpa using hlen)
    exact ⟨hgap, by simp [hvi], hslot.trans huslot⟩
  · intro hlen
    exact hvwhole (by simpa using hlen)

/-- Up to N plausible pairs run to the frame with their values behind the ones stored before. -/
theorem FrameSoFar.run_edgesOf (h : FrameSoFar c x vals s) (hc : c.wf) (hm : c.syncThreshold < c.modulus)
    {pairs : List (Nat × Nat)} (hn : vals.length + pairs.length ≤ numChannels)
    (hp : ∀ gp ∈ pairs, PlausiblePair c gp.1 gp.2) :
    ∃ u, runInstrs (edgesOf c s.ppm.lastEdge pairs) s = .next u ∧ FrameSoFar c x (vals ++ pairValues c pairs) u := by
  induction pairs generalizing s vals with
  | nil => exact ⟨s, rfl, by simpa using h⟩
  | cons gp pairs ih =>
    obtain ⟨g, p⟩ := gp
    obtain ⟨hgp, hp⟩ := List.forall_mem_cons.mp hp
    rw [List.length_cons] at hn
    obtain ⟨u, v, hu, -, hv, hvl, hframe⟩ := h.exec_pair hc hm (by omega) hgp
    obtain ⟨w, hw, hwframe⟩ := ih hframe (by simp; omega) hp
    refine ⟨w, ?_, by simpa using hwframe⟩
    rw [edgesOf, runInstrs_cons hu, runInstrs_cons hv, ← hvl, hw]

/-- Before the last edge of up to N plausible pairs the slot is as it was at the sync pulse. -/
theorem FrameSoFar.run_take_edgesOf (h : FrameSoFar c x vals s) (hc : c.wf) (hm : c.syncThreshold < c.modulus)
    {pairs : List (Nat × Nat)} (hn : vals.length + pairs.length ≤ numChannels)
    (hp : ∀ gp ∈ pairs, PlausiblePair c gp.1 gp.2) {k : Nat} (hk : k < 2 * pairs.length) :
    ∃ u, runInstrs ((edgesOf c s.ppm.lastEdge pairs).take k) s = .next u ∧ u.slot = x := by
  induction pairs generalizing s vals k with
  | nil => exact absurd hk (Nat.not_lt_zero k)
  | cons gp pairs ih =>
    obtain ⟨g, p⟩ := gp
    obtain ⟨hgp, hp⟩ := List.forall_mem_cons.mp hp
    rw [List.length_cons] at hn hk
    obtain ⟨u, v, hu, huslot, hv, hvl, hframe⟩ := h.exec_pair hc hm (by omega) hgp
    match k with
    | 0 =>
      obtain ⟨-, -, hslot⟩ := h.partly (by omega)
      exact ⟨s, rfl, hslot⟩
    | 1 => exact ⟨u, runInstrs_cons hu, huslot⟩
    | k + 2 =>
      obtain ⟨w, hw, hwslot⟩ := ih hframe (by simp; omega) hp (k := k) (by omega)
      refine ⟨w, ?_, hwslot⟩
      rw [edgesOf, List.take_succ_cons, List.take_succ_cons, runInstrs_cons hu, runInstrs_cons hv, ← hvl, hw]

end Frame

/-- Settles O18: before its last edge a run keeps the slot; at the end all nine channels are stored and published. -/
theorem fullFrameIsPublishedExactlyOnce : Obligations.FullFrameIsPublishedExactlyOnce := by
  intro s t pairs hc ht hm hs hlen hp
  obtain ⟨u, hu, hul, hframe⟩ := exec_syncEdge ht hs
  rw [← hul]
  constructor
  · intro k hk
    cases k with
    | zero => exact ⟨s, rfl, rfl⟩
    | succ k =>
      rw [List.take_succ_cons, runInstrs_cons hu]
      exact hframe.run_take_edgesOf hc hm (by simp [hlen]) hp (by omega)
  · obtain ⟨v, hv, hvframe⟩ := hframe.run_edgesOf hc hm (by simp [hlen]) hp
    obtain ⟨hwait, hslot⟩ := hvframe.whole (by simp [hlen])
    have hchan := hvframe.chan
    rw [List.take_of_length_le (by simp [hlen])] at hchan
    exact ⟨v, (runInstrs_cons hu).trans hv, by rw [hslot], hwait, by rw [hslot]; exact hchan⟩

/-- Settles O19: after fewer than nine pairs the frame is still in progress, so the next sync edge discards it (R122). -/
theorem syncPulseMidFrameDiscardsIt : Obligations.SyncPulseMidFrameDiscardsIt := by
  intro s t t' pairs hc ht hm hs hlen hp
  obtain ⟨u, hu, hul, hframe⟩ := exec_syncEdge ht hs
  obtain ⟨v, hv, hvframe⟩ := hframe.run_edgesOf hc hm (by simpa using hlen.le) hp
  obtain ⟨hgap, hidx, hslot⟩ := hvframe.partly (by simpa using hlen)
  refine ⟨v, hul ▸ (runInstrs_cons hu).trans hv, hslot, hgap, by simpa using hidx, fun ht' hs' => ?_⟩
  rw [← hvframe.cfg] at ht' hs'
  exact ⟨_, exec_of_case (.edge ht' (.sync hs')), by simp [hgap], hslot, rfl, rfl⟩

/-! ### Sound configurations -/

/-- Under R268's bound on the threshold a width that is no sync pulse gives no value above 65535. -/
theorem channelValue_le_of_cannotOverflow {c : Config} {g : U32} {w : Nat} (h : cannotOverflow c)
    (hg : g.toNat ≤ c.syncThreshold) (hw : w ≤ c.syncThreshold) : channelValue c g w ≤ 65535 := by
  cases hm : c.widthMode <;> simp only [cannotOverflow, channelValue, hm] at h ⊢ <;> omega

/-- With the threshold at MODULUS - 1 or above no width exceeds it, so a decoder in Waiting stays there (R268). -/
theorem EdgeCase.waiting_of_not_canSync {s u : State} {n w : Nat} (h : EdgeCase s n w u) (hc : ¬ canSync s.cfg)
    (hw : w < s.cfg.modulus) (hs : s.ppm.state = .waiting) : u.ppm.state = .waiting := by
  cases h with
  | sync hlt => exact absurd (show s.cfg.syncThreshold + 1 ≤ s.cfg.modulus - 1 by omega) hc
  | waiting => exact hs
  | gapShort | pulseShort | overflow | publish => rfl
  | gap _ hg | store _ hg => rw [hs] at hg; cases hg

/-- Settles O21: only an edge leaves Waiting, and only an edge overflows. -/
theorem soundConfigurationsOfTheDecoder : Obligations.SoundConfigurationsOfTheDecoder := by
  intro i s t hinv h
  have hcase := exec_cases h
  refine ⟨fun hc hs => ?_, fun hc ha => ?_⟩
  · cases hcase with
    | reset | tickWrap | rollover => rfl
    | edge hm he => exact he.waiting_of_not_canSync hc (elapsed_lt hm hinv.lastEdge) hs
    | _ => exact hs
  · obtain ⟨v, he⟩ := hcase.edge_of_valueOverflow ha
    obtain ⟨hle, hv⟩ := he.of_valueOverflow ha
    exact absurd hv (Nat.not_lt.mpr (channelValue_le_of_cannotOverflow hc hinv.gapBound hle))

/-! ### One edge -/

/-- Every edge sets `last_edge` (R121). -/
theorem EdgeCase.lastEdge_eq {s u : State} {n w : Nat} (h : EdgeCase s n w u) : u.ppm.lastEdge = n := by
  cases h <;> rfl

/-- EDGE refuses a timestamp that is not below MODULUS (R88, R121). -/
theorem exec_edge_of_le {s : State} {t : U32} (h : s.cfg.modulus ≤ t.toNat) :
    exec (.edge t) s = .refused (.illFormed .operandNotBelowModulus) :=
  if_neg (Nat.not_lt.mpr h)

/-- Settles O8: every edge below MODULUS ends in some case, and every case sets `last_edge`. -/
theorem edgeSetsLastEdgeInEveryState : Obligations.EdgeSetsLastEdgeInEveryState := by
  refine fun s t => ⟨rfl, fun hm => ?_, exec_edge_of_le⟩
  have hc := ppmEdge_cases t.toNat s
  exact ⟨_, exec_of_case (.edge hm hc), hc.lastEdge_eq⟩

/-- Measured from 0 a reading is its own distance (R270). -/
theorem elapsed_zero (m now : Nat) : elapsed m now 0 = now := by
  simp [elapsed]

/-- Settles O9: the reset state waits with `last_edge` 0, so the width is the timestamp. -/
theorem firstEdgeAfterResetIsMeasuredFromZero : Obligations.FirstEdgeAfterResetIsMeasuredFromZero := by
  intro c t ht
  have hwidth : elapsed c.modulus t.toNat 0 = t.toNat := elapsed_zero _ _
  by_cases hs : c.syncThreshold < t.toNat
  · refine ⟨_, exec_of_case (.edge ht (.sync (hwidth.symm ▸ hs))), iff_of_true rfl hs, fun hne => absurd rfl hne⟩
  · refine ⟨_, exec_of_case (.edge ht (.waiting (hwidth.symm ▸ Nat.not_lt.mp hs) rfl)), iff_of_false nofun hs, fun _ => rfl⟩

/-- Settles O10: the sync case of an edge, which asks nothing of the decoder's state. -/
theorem edgeAboveThresholdStartsAFrame : Obligations.EdgeAboveThresholdStartsAFrame :=
  fun _ _ hm hw => exec_of_case (.edge hm (.sync hw))

/-- Settles O11: the case of an edge in Waiting. -/
theorem edgeInWaitingOnlyMovesLastEdge : Obligations.EdgeInWaitingOnlyMovesLastEdge :=
  fun _ _ hm hw hs => exec_of_case (.edge hm (.waiting hw hs))

/-- Settles O12: the two sides of MIN_GAP. -/
theorem edgeEndsAGap : Obligations.EdgeEndsAGap :=
  fun _ _ hm hw hs =>
    ⟨fun hg => exec_of_case (.edge hm (.gapShort hw hs hg)), fun hg => exec_of_case (.edge hm (.gap hw hs hg))⟩

/-- Settles O13: the value named by the statement is the one that the edge stores, inside the frame. -/
theorem edgeEndsAPulse : Obligations.EdgeEndsAPulse := by
  intro s t v hm hw hs hv
  rw [← channelValue_eq] at hv
  subst hv
  refine ⟨fun hp => exec_of_case (.edge hm (.pulseShort hw hs hp)),
    fun hp ho => exec_of_case (.edge hm (.overflow hw hs hp ho)), fun hi hp ho => ?_⟩
  rw [← setIfInBounds_eq_set _ _ _ hi]
  refine ⟨fun hnext => exec_of_case (.edge hm (.store hw hs hp ho hnext)), fun hlast => ?_⟩
  rw [← hlast]
  exact exec_of_case (.edge hm (.publish hw hs hp ho hlast.ge))

/-! ### ROLLOVER and TAKE -/

/-- Settles O15: ROLLOVER ends in one way, whatever the decoder's state. -/
theorem rolloverForcesWaiting : Obligations.RolloverForcesWaiting :=
  ⟨rfl, fun _ => exec_of_case .rollover⟩

/-- Settles O16: the full slot and the empty one. -/
theorem takeDeliversAndEmptiesTheSlot : Obligations.TakeDeliversAndEmptiesTheSlot :=
  ⟨rfl, fun _ => ⟨fun hf => exec_of_case (.take hf), fun hf => exec_of_case (.takeEmpty hf)⟩⟩

end Sys2Proof.Machine
end

section
/-! Proofs of the family 42_frame_codec.md: what DECODE answers (R156, R158), the bytes of the ENC_ operations (R153 to R155), that
both are inverse to each other (R159), that every single-bit flip is detected (R160), and that the framer holds no state (R150). -/

namespace Sys2Proof.Machine

/-! ### The framer holds no state -/

/-- A new report alone leaves every state element (R20). -/
theorem onlyReports_setOut (s : State) (r : Report) : OnlyReports s { s with out := r } :=
  ⟨rfl, rfl, rfl, rfl, rfl, rfl, rfl, rfl⟩

/-- A framer operation writes the report alone, and the same report from any state of the same configuration (R150). -/
theorem ExecCase.framer {i : Instr} {s t s' : State} (h : ExecCase s i t) (hu : unitOf i = .frameCodec)
    (hc : s'.cfg = s.cfg) : t = { s with out := t.out } ∧ ExecCase s' i { s' with out := t.out } := by
  cases h with
  | encBeacon hf => exact ⟨rfl, hc ▸ .encBeacon hf⟩
  | encControl => exact ⟨rfl, hc ▸ .encControl⟩
  | encTelemetry => exact ⟨rfl, hc ▸ .encTelemetry⟩
  | decode => exact ⟨rfl, hc ▸ .decode⟩
  | beacon => exact ⟨rfl, hc ▸ .beacon⟩
  | control => exact ⟨rfl, hc ▸ .control⟩
  | telemetry => exact ⟨rfl, hc ▸ .telemetry⟩
  | _ => cases hu

/-- Settles O31: the report is the only thing written, and it is made from the operand and the configuration. -/
theorem framerOperationsArePure : Obligations.FramerOperationsArePure := by
  intro i s t s' hu h hc
  obtain ⟨ht, hsame⟩ := (exec_cases h).framer hu hc
  exact ⟨ht ▸ onlyReports_setOut s _, _, exec_of_case hsame, rfl, onlyReports_setOut s' _⟩

/-! ### The type test of DECODE -/

/-- The packet of a given type whose fields stand at the offsets of R78 to R80. -/
def packetAt (b : List Byte) : PacketType → Packet
  | .beacon => .beacon (read16 b 1) (txBit (read8 b 3)) (rxBit (read8 b 3)) (bindBit (read8 b 3))
  | .control => .control (read16 b 1) (controlPayloadAt b)
  | .telemetry => .telemetry (read16 b 1) (telemetryPayloadAt b)

/-- A buffer of an assigned type is the packet at its offsets exactly when its length is L(type) (R158). -/
theorem packetOf_of_code {b : List Byte} {t : PacketType} (h : read8 b 0 = t.code) :
    packetOf b = if b.length = t.length then .ok (packetAt b t) else .corrupt .badLength := by
  unfold packetOf
  rw [h, packetType?_code]
  cases t <;> exact ite_not ..

/-- Codes 3 to 255 name no packet (R77, R158). -/
theorem packetOf_unknownType {b : List Byte} (h : 3 ≤ (read8 b 0).toNat) : packetOf b = .corrupt .unknownType := by
  unfold packetOf
  rw [packetType?_eq_none_iff.mpr h]

/-- The buffers that DECODE's type test passes. -/
theorem packetOf_eq_ok_iff {b : List Byte} {p : Packet} :
    packetOf b = .ok p ↔ ∃ t : PacketType, read8 b 0 = t.code ∧ b.length = t.length ∧ packetAt b t = p := by
  constructor
  · intro h
    cases ht : packetType? (read8 b 0) with
    | none =>
      rw [packetOf_unknownType (packetType?_eq_none_iff.mp ht)] at h
      cases h
    | some t =>
      have hcode := (code_of_packetType? ht).symm
      rw [packetOf_of_code hcode] at h
      split at h
      case isTrue hl => cases h; exact ⟨t, hcode, hl, rfl⟩
      case isFalse => cases h
  · rintro ⟨t, hcode, hl, rfl⟩
    rw [packetOf_of_code hcode, if_pos hl]

/-- Settles O26: the three tests in their order. -/
theorem decodeTestsLengthChecksumTypeInOrder : Obligations.DecodeTestsLengthChecksumTypeInOrder := by
  rintro c b _ rfl
  have hcrc (h5 : 5 ≤ b.length) : crc16 c (b.take (b.length - 2) ++ [0x00#8, 0x00#8]) = checksumOf c b := by
    rw [checksumOf, zeroChecksum_eq_take b (by omega)]
  refine ⟨decodeBytes_tooShort c, fun h5 hsum => ?_, fun h5 hsum => ?_⟩
  · exact decodeBytes_badChecksum h5 (hcrc h5 ▸ hsum)
  · rw [decodeBytes_good h5 (hcrc h5 ▸ hsum)]
    have hbad (t : PacketType) (hcode : read8 b 0 = t.code) (hl : b.length ≠ t.length) :
        packetOf b = .corrupt .badLength := by rw [packetOf_of_code hcode, if_neg hl]
    have hok (t : PacketType) (hcode : read8 b 0 = t.code) (hl : b.length = t.length) :
        packetOf b = .ok (packetAt b t) := packetOf_eq_ok_iff.mpr ⟨t, hcode, hl, rfl⟩
    exact ⟨packetOf_unknownType, hbad .beacon, hbad .control, hbad .telemetry, hok .beacon, hok .control, hok .telemetry⟩

/-! ### The checksum field -/

/-- The checksum of a packet is that of the bytes before it and two zero bytes (R152). -/
theorem checksumOf_append_le16 (c : Config) (body : List Byte) (sum : U16) :
    checksumOf c (body ++ le16 sum) = crc16 c (body ++ le16 0#16) := by
  have hl : (body ++ le16 sum).length - 2 = body.length := by simp
  rw [checksumOf, zeroChecksum, hl, write16_append_le16]

/-- Storing the checksum where two zero bytes stand (R152). -/
theorem withChecksum_append_zero (c : Config) (body : List Byte) :
    withChecksum c (body ++ le16 0#16) = body ++ le16 (crc16 c (body ++ le16 0#16)) := by
  rw [withChecksum_append_le16, checksumOf_append_le16]

/-- ENC_BEACON's bytes are the wire packet with its checksum (R153). -/
theorem beaconBytes_eq (c : Config) (seq : U16) (f : Byte) :
    beaconBytes c seq f = beaconPacket seq f (crc16 c (beaconPacket seq f 0#16)) :=
  withChecksum_append_zero c (_ :: _)

/-- ENC_CONTROL's bytes are the wire packet with its checksum (R154). -/
theorem controlFrame_eq (c : Config) (seq : U16) (p : ControlPayload) :
    controlFrame c seq p = controlPacket seq p (crc16 c (controlPacket seq p 0#16)) :=
  withChecksum_append_zero c (_ :: _)

/-- ENC_TELEMETRY's bytes are the wire packet with its checksum (R155). -/
theorem telemetryFrame_eq (c : Config) (seq : U16) (p : TelemetryPayload) :
    telemetryFrame c seq p = telemetryPacket seq p (crc16 c (telemetryPacket seq p 0#16)) :=
  withChecksum_append_zero c (_ :: _)

/-- A u16 laid out at the end of a buffer is read back there. -/
theorem read16_append_le16 (body : List Byte) (v : U16) : read16 (body ++ le16 v) body.length = v := by
  simp [read16, read8, le16]

/-- DECODE of a buffer given as its bytes before the checksum and the checksum (R156). -/
theorem decodeBytes_append_le16 (c : Config) {body : List Byte} (h : 3 ≤ body.length) (sum : U16) :
    decodeBytes c (body ++ le16 sum) =
      if crc16 c (body ++ le16 0#16) = sum then packetOf (body ++ le16 sum) else .corrupt .badChecksum := by
  have hlen : 5 ≤ (body ++ le16 sum).length := by simpa
  have hread : read16 (body ++ le16 sum) ((body ++ le16 sum).length - 2) = sum := by
    simpa using read16_append_le16 body sum
  have hsum := checksumOf_append_le16 c body sum
  split
  case isTrue heq => exact decodeBytes_good hlen (by rw [hread, hsum, heq])
  case isFalse hne => exact decodeBytes_badChecksum hlen (by rwa [hread, hsum])

/-! ### Decoding what was encoded -/

@[simp] theorem txBit_roleFlagsOf (tx rx bind : Bool) : txBit (roleFlagsOf tx rx bind) = tx := by
  revert tx rx bind
  decide

@[simp] theorem rxBit_roleFlagsOf (tx rx bind : Bool) : rxBit (roleFlagsOf tx rx bind) = rx := by
  revert tx rx bind
  decide

@[simp] theorem bindBit_roleFlagsOf (tx rx bind : Bool) : bindBit (roleFlagsOf tx rx bind) = bind := by
  revert tx rx bind
  decide

/-- The bytes of a packet before its checksum (R78 to R80). -/
def packetBody : Packet → List Byte
  | .beacon seq tx rx bind => PacketType.beacon.code :: (le16 seq ++ [roleFlagsOf tx rx bind])
  | .control seq p => PacketType.control.code :: (le16 seq ++ controlBytes p)
  | .telemetry seq p => PacketType.telemetry.code :: (le16 seq ++ telemetryBytes p)

theorem three_le_packetBody_length (p : Packet) : 3 ≤ (packetBody p).length := by
  cases p <;> simp [packetBody]

/-- An encoded packet is its body and the checksum of its body (R152 to R155). -/
theorem encodePacket_eq (c : Config) (p : Packet) :
    encodePacket c p = packetBody p ++ le16 (crc16 c (packetBody p ++ le16 0#16)) := by
  cases p with
  | beacon => exact beaconBytes_eq ..
  | control => exact controlFrame_eq ..
  | telemetry => exact telemetryFrame_eq ..

/-- The type test gives back the packet whose body was laid out, whatever the checksum. -/
theorem packetOf_packetBody (p : Packet) (sum : U16) : packetOf (packetBody p ++ le16 sum) = .ok p := by
  rw [packetOf_eq_ok_iff]
  cases p with
  | beacon seq tx rx bind =>
    have hseq : read16 (packetBody (.beacon seq tx rx bind) ++ le16 sum) 1 = seq := read16_cons_le16 _ seq _
    have hf : read8 (packetBody (.beacon seq tx rx bind) ++ le16 sum) 3 = roleFlagsOf tx rx bind := rfl
    exact ⟨.beacon, rfl, rfl, by simp [packetAt, hseq, hf]⟩
  | control seq p =>
    have hseq : read16 (packetBody (.control seq p) ++ le16 sum) 1 = seq := read16_cons_le16 _ seq _
    exact ⟨.control, rfl, rfl, congrArg₂ Packet.control hseq (controlPayloadAt_controlBytes _ _ _ p _)⟩
  | telemetry seq p =>
    have hseq : read16 (packetBody (.telemetry seq p) ++ le16 sum) 1 = seq := read16_cons_le16 _ seq _
    exact ⟨.telemetry, rfl, rfl, congrArg₂ Packet.telemetry hseq (telemetryPayloadAt_telemetryBytes _ _ _ p _)⟩

/-- Settles O28: the stored checksum passes the test, and the fields are read where they were laid out. -/
theorem decodingAnEncodedPacketGivesItBack : Obligations.DecodingAnEncodedPacketGivesItBack := by
  intro c p
  rw [encodePacket_eq, decodeBytes_append_le16 c (three_le_packetBody_length p), if_pos rfl, packetOf_packetBody]

/-! ### Encoding what was decoded -/

/-- A `role_flags` byte with bits 6..2 clear is made of its three bits (R82). -/
theorem roleFlagsOf_bits {f : Byte} (h : f &&& 0x7C#8 = 0#8) : roleFlagsOf (txBit f) (rxBit f) (bindBit f) = f := by
  revert f
  decide

/-- Laying out the fields read from a BEACON buffer gives the buffer back (R78). -/
theorem beaconPacket_of_reads {b : List Byte} (hcode : read8 b 0 = PacketType.beacon.code)
    (hl : b.length = PacketType.beacon.length) : beaconPacket (read16 b 1) (read8 b 3) (read16 b 4) = b := by
  conv_rhs => rw [eq_map_read8 _ b hl]
  rw [beaconPacket, ← hcode, le16_read16, le16_read16]
  rfl

/-- Laying out the fields read from a CONTROL buffer gives the buffer back (R79). -/
theorem controlPacket_of_reads {b : List Byte} (hcode : read8 b 0 = PacketType.control.code)
    (hl : b.length = PacketType.control.length) : controlPacket (read16 b 1) (controlPayloadAt b) (read16 b 19) = b := by
  conv_rhs => rw [eq_map_read8 _ b hl]
  rw [controlPacket, ← hcode, le16_read16, le16_read16, controlBytes_controlPayloadAt]
  rfl

/-- Laying out the fields read from a TELEMETRY buffer gives the buffer back (R80). -/
theorem telemetryPacket_of_reads {b : List Byte} (hcode : read8 b 0 = PacketType.telemetry.code)
    (hl : b.length = PacketType.telemetry.length) :
    telemetryPacket (read16 b 1) (telemetryPayloadAt b) (read16 b 11) = b := by
  conv_rhs => rw [eq_map_read8 _ b hl]
  rw [telemetryPacket, ← hcode, le16_read16, le16_read16, telemetryBytes_telemetryPayloadAt]
  rfl

/-- A buffer of an assigned type and its length is the body of the packet at its offsets and its last two bytes, but for the
reserved bits of a Beacon. -/
theorem packetBody_packetAt {b : List Byte} {t : PacketType} (hcode : read8 b 0 = t.code) (hl : b.length = t.length)
    (hclear : t = .beacon → read8 b 3 &&& 0x7C#8 = 0#8) :
    packetBody (packetAt b t) ++ le16 (read16 b (b.length - 2)) = b := by
  rw [hl]
  cases t with
  | beacon =>
    rw [packetAt, packetBody, roleFlagsOf_bits (hclear rfl)]
    exact beaconPacket_of_reads hcode hl
  | control => exact controlPacket_of_reads hcode hl
  | telemetry => exact telemetryPacket_of_reads hcode hl

/-- Settles O29: the body is laid out as it was read, and the checksum test says that its checksum is the one read. -/
theorem encodingADecodedBufferGivesItBack : Obligations.EncodingADecodedBufferGivesItBack := by
  intro c b p h hclear
  obtain ⟨-, hsum, hp⟩ := decodeBytes_ok h
  obtain ⟨t, hcode, hl, rfl⟩ := packetOf_eq_ok_iff.mp hp
  have hb := packetBody_packetAt hcode hl fun ht => hclear (by rw [hcode, ht]; rfl)
  have hcrc := checksumOf_append_le16 c (packetBody (packetAt b t)) (read16 b (b.length - 2))
  calc encodePacket c (packetAt b t)
    _ = packetBody (packetAt b t) ++ le16 (crc16 c (packetBody (packetAt b t) ++ le16 0#16)) := encodePacket_eq c _
    _ = packetBody (packetAt b t) ++ le16 (read16 b (b.length - 2)) := by rw [← hcrc, hb, hsum, hb]
    _ = b := hb

/-! ### Flipped bits -/

theorem read8_append_left {a : List Byte} {k : Nat} (b : List Byte) (h : k < a.length) : read8 (a ++ b) k = read8 a k :=
  List.getD_append a b _ k h

theorem read8_append_right (a b : List Byte) (k : Nat) : read8 (a ++ b) (a.length + k) = read8 b k :=
  (List.getD_append_right a b _ _ (Nat.le_add_right ..)).trans (by rw [Nat.add_sub_cancel_left, read8])

theorem write8_append_left {a : List Byte} {k : Nat} (b : List Byte) (v : Byte) (h : k < a.length) :
    write8 (a ++ b) k v = write8 a k v ++ b :=
  List.set_append_left k v h

theorem write8_append_right (a b : List Byte) (k : Nat) (v : Byte) :
    write8 (a ++ b) (a.length + k) v = a ++ write8 b k v :=
  (List.set_append_right _ v (Nat.le_add_right ..)).trans (by rw [Nat.add_sub_cancel_left, write8])

/-- A bit of the first of two parts. -/
theorem flipBit_append_left {a : List Byte} {i : Nat} (b : List Byte) (hi : i < 8 * a.length) :
    flipBit i (a ++ b) = flipBit i a ++ b := by
  have hk : i / 8 < a.length := by omega
  rw [flipBit, read8_append_left b hk, write8_append_left b _ hk, flipBit]

/-- A bit of the second of two parts. -/
theorem flipBit_append_right (a b : List Byte) (i : Nat) : flipBit (8 * a.length + i) (a ++ b) = a ++ flipBit i b := by
  have hdiv : (8 * a.length + i) / 8 = a.length + i / 8 := by omega
  have hmod : (8 * a.length + i) % 8 = i % 8 := by omega
  rw [flipBit, hdiv, hmod, read8_append_right, write8_append_right, flipBit]

@[simp] theorem flipBit_length (i : Nat) (b : List Byte) : (flipBit i b).length = b.length := write8_length ..

/-- Two bytes with a bit flipped are still a u16's. -/
theorem exists_flipBit_le16 (i : Nat) (v : U16) : ∃ v', flipBit i (le16 v) = le16 v' :=
  ⟨read16 (flipBit i (le16 v)) 0, by rw [le16_read16]; exact eq_map_read8 2 _ (flipBit_length i _)⟩

/-- Any bit flipped changes the checksum, if the polynomial has more than one term (R160). -/
theorem crc16_flipBit_ne {c : Config} {b : List Byte} {i : Nat} (hpoly : c.crcPolyRefl ≠ 0#16) (hi : i < 8 * b.length) :
    crc16 c (flipBit i b) ≠ crc16 c b := by
  have hk : i / 8 < b.length := by omega
  intro h
  rw [flipBit, crc16_write8_xor c b (i / 8) _ hk] at h
  have hzero := (BitVec.xor_right_inj _).mp (h.trans BitVec.xor_zero.symm)
  exact crcBits_single_ne_zero _ hpoly _ _ (Nat.mod_lt i (by decide)) hzero

/-- Settles O30: a bit of the body changes the checksum computed and keeps the one stored; a bit of the checksum field changes
the one stored and keeps the one computed. -/
theorem everySingleBitFlipIsDetected : Obligations.EverySingleBitFlipIsDetected := by
  intro c p i hpoly hi
  have h3 := three_le_packetBody_length p
  rw [encodePacket_eq] at hi ⊢
  generalize packetBody p = body at h3 hi ⊢
  rcases Nat.lt_or_ge i (8 * body.length) with hbody | hfield
  · have hne : crc16 c (flipBit i body ++ le16 0#16) ≠ crc16 c (body ++ le16 0#16) := by
      rw [← flipBit_append_left _ hbody]
      exact crc16_flipBit_ne hpoly (by rw [List.length_append]; omega)
    rw [flipBit_append_left _ hbody, decodeBytes_append_le16 c (by simpa using h3), if_neg hne]
  · obtain ⟨j, rfl⟩ := Nat.exists_eq_add_of_le hfield
    obtain ⟨sum, hsum⟩ := exists_flipBit_le16 j (crc16 c (body ++ le16 0#16))
    have hne : crc16 c (body ++ le16 0#16) ≠ sum := by
      rintro rfl
      have hj : j < 8 * (le16 (crc16 c (body ++ le16 0#16))).length := by
        rw [List.length_append] at hi
        omega
      exact crc16_flipBit_ne hpoly hj (congrArg (crc16 c) hsum)
    rw [flipBit_append_right, hsum, decodeBytes_append_le16 c h3, if_neg hne]

/-! ### The operations -/

/-- Settles O22: R88's test of the reserved bits, and the checksum stored where two zero bytes stood. -/
theorem encBeaconProducesSixBytes : Obligations.EncBeaconProducesSixBytes := by
  rintro s seq f _ rfl
  refine ⟨rfl, fun hf => ?_, fun hf => if_neg (reservedClear_iff.not.mpr hf)⟩
  rw [exec_of_case (.encBeacon (reservedClear_iff.mpr hf)), beaconBytes_eq]
  rfl

/-- Settles O23: the checksum stored where two zero bytes stood. -/
theorem encControlProducesTwentyOneBytes : Obligations.EncControlProducesTwentyOneBytes := by
  rintro s seq m0 m1 m2 b0 b1 b2 s0 s1 _ rest rfl rfl
  refine ⟨rfl, ?_⟩
  rw [exec_of_case .encControl, controlFrame_eq]
  rfl

/-- Settles O24: the checksum stored where two zero bytes stood. -/
theorem encTelemetryProducesThirteenBytes : Obligations.EncTelemetryProducesThirteenBytes := by
  rintro s seq v n l e _ rest rfl rfl
  refine ⟨rfl, ?_⟩
  rw [exec_of_case .encTelemetry, telemetryFrame_eq]
  rfl

/-- Settles O25: DECODE writes the report of its result. -/
theorem decodeReportsItsResult : Obligations.DecodeReportsItsResult := by
  intro s b
  refine ⟨rfl, decode_wf_iff, fun p hp => ?_, fun cause hc => ?_⟩
  · rw [exec_of_case .decode, hp, decodeReport]
  · rw [exec_of_case .decode, hc, decodeReport]

/-- A choice between two instructions is no choice where they do the same. -/
theorem exec_ite_eq_right {q : Prop} [Decidable q] {i j : Instr} {s : State} (h : q → exec i s = exec j s) :
    exec (if q then i else j) s = exec j s := by
  split
  case isTrue hq => exact h hq
  case isFalse => rfl

/-- A received buffer has DECODE's meaning, whether or not it is read as a wire packet (log 5). -/
theorem exec_decodePacket (b : List Byte) (s : State) : exec (decodePacket b) s = exec (.decode b) s := by
  cases ht : packetType? (read8 b 0) with
  | none => simp only [decodePacket, ht]
  | some t =>
    have hcode := (code_of_packetType? ht).symm
    cases t with
    | beacon =>
      simp only [decodePacket, ht]
      exact exec_ite_eq_right fun hl => congrArg (execDecode · s) (beaconPacket_of_reads hcode hl)
    | control =>
      simp only [decodePacket, ht]
      exact exec_ite_eq_right fun hl => congrArg (execDecode · s) (controlPacket_of_reads hcode hl)
    | telemetry =>
      simp only [decodePacket, ht]
      exact exec_ite_eq_right fun hl => congrArg (execDecode · s) (telemetryPacket_of_reads hcode hl)

/-- Settles O53: the decoder takes every packet, and DECODE completes on every buffer. -/
theorem receivedPacketsAlwaysRun : Obligations.ReceivedPacketsAlwaysRun := by
  intro s b rest h
  have hstep : step s = exec (.decode b) { s with inbox := rest } :=
    (step_of_decoded h rfl).trans (exec_decodePacket b _)
  exact ⟨hstep, _, hstep.trans (exec_of_case .decode)⟩

end Sys2Proof.Machine
end

section
/-! Proofs of the family 43_pairing.md: what each pairing operation does and where it is Ignored (R176 to R182, R185, R187), the
states that only RESET leaves (R181, R183), how two nodes bind (R186), and the pairing invariant over every step. -/

namespace Sys2Proof.Machine

section Pairing

variable {s t : State} {i : Instr} {src mac : Mac} {f : Byte}

/-! ### Every step keeps the pairing invariant -/

/-- Every way to complete keeps the pairing invariant: the timer is armed where Waiting is entered and off where it is left, a
bound peer is never broadcast (R88, R180), and the fast path finds its peer bound (R179). -/
theorem ExecCase.keeps_pairInv (h : ExecCase s i t) (hinv : PairInv s) : PairInv t := by
  cases h with
  | reset => exact { pairInv_resetWith s.cfg with }
  | edge _ he => rw [he.frame]; exact { hinv with }
  | pairStart _ hm =>
    exact { timer := iff_of_true rfl rfl, idle := nofun, bound := nofun, concrete := iff_of_true rfl hm }
  | pairStartAbsent =>
    exact { timer := iff_of_true rfl rfl, idle := nofun, bound := nofun, concrete := iff_of_false nofun (absurd rfl) }
  | pairTimeout => exact { hinv with timer := iff_of_false nofun nofun, idle := nofun, bound := nofun }
  | fastPath _ hb => exact { hinv with timer := iff_of_false nofun nofun, idle := nofun, bound := fun _ => hb }
  | bind _ _ hs =>
    exact { timer := iff_of_false nofun nofun, idle := nofun, bound := fun _ => rfl, concrete := iff_of_true rfl hs }
  | pairCancel hb =>
    have hoff : ¬ s.pair.timerArmed = true := fun ha => by simp [hinv.timer.mp ha] at hb
    exact { hinv with timer := iff_of_false hoff nofun, idle := nofun, bound := nofun }
  | _ => exact { hinv with }

/-! ### The states that only RESET leaves -/

/-- No transition starts from Bound or Cancelled, so only RESET changes the pairing unit there (R181, R183). -/
theorem ExecCase.pairing_eq_of_final (h : ExecCase s i t) (hr : i ≠ .reset)
    (hfinal : s.pair.state = .bound ∨ s.pair.state = .cancelled) : t.pair = s.pair ∧ t.peer = s.peer := by
  cases h with
  | reset => exact absurd rfl hr
  | pairStart hs | pairStartAbsent hs | pairTimeout hs | fastPath hs | bind hs | pairCancel hs => simp [hs] at hfinal
  | edge _ he => rw [he.frame]; exact ⟨rfl, rfl⟩
  | _ => exact ⟨rfl, rfl⟩

/-! ### How two nodes bind -/

/-- The acknowledgement's `role_flags` have BIND set, whatever the role (R180). -/
theorem bindBit_ownFlag_or (r : Role) : bindBit (ownFlag r ||| 0x80#8) = true := by
  cases r <;> rfl

/-- In Binding a BIND beacon from a concrete address binds, and is answered by a BIND beacon (R180). -/
theorem exists_bind_and_acknowledgement (hs : s.pair.state = .binding) (hf : bindBit f = true) (hsrc : src ≠ broadcast) :
    ∃ t ack, exec (.pairBeacon src f) s = .next t ∧ t.peer = ⟨src, true⟩ ∧ t.pair.state = .bound ∧
      .sendBeacon src ack ∈ t.out.actions ∧ bindBit ack = true :=
  ⟨_, _, exec_of_case (.bind hs hf hsrc), rfl, rfl, .tail _ (.tail _ (.head _)), bindBit_ownFlag_or s.cfg.role⟩

/-- In Bound every beacon is Ignored (R183, R187). -/
theorem exec_pairBeacon_of_bound (hs : s.pair.state = .bound) :
    exec (.pairBeacon src f) s = .next { s with out := ⟨.ignored, .none, [.log]⟩ } :=
  exec_of_case (.pairBeaconIgnored (by simp [hs]) (by simp [hs]))

/-! ### Operands that PAIR_START refuses -/

/-- A persisted peer is never broadcast (R88). -/
theorem exec_pairStart_broadcast (s : State) :
    exec (.pairStart true broadcast) s = .refused (.illFormed .persistedMacBroadcast) := by
  simp [exec, execPairStart, refuse]

/-- Without a persisted peer the address is zero (R88). -/
theorem exec_pairStart_absent_of_ne_zeroMac (h : mac ≠ zeroMac) :
    exec (.pairStart false mac) s = .refused (.illFormed .absentMacNotZero) := by
  simp [exec, execPairStart, refuse, h]

end Pairing

/-! ### The statements -/

/-- Settles O46: waiting changes nothing, and the operation a step runs starts from the same state with an input less. -/
theorem everyStepKeepsThePairingInvariant : Obligations.EveryStepKeepsThePairingInvariant := by
  intro s t hinv h
  obtain ⟨-, rfl⟩ | ⟨x, rest, i, -, -, hc⟩ := step_cases h
  · exact hinv
  · exact hc.keeps_pairInv { hinv with }

/-- Settles O35: the two cases of PAIR_CANCEL, and Cancelled as a state that only RESET leaves. -/
theorem pairCancelLeavesBindingForGood : Obligations.PairCancelLeavesBindingForGood :=
  ⟨rfl, fun _ => ⟨fun hs => exec_of_case (.pairCancel hs), fun hs => exec_of_case (.pairCancelIgnored hs)⟩,
    fun _ _ _ hs hr h => (exec_cases h).pairing_eq_of_final hr (.inr hs)⟩

/-- Settles O38: Bound as a state that only RESET leaves. -/
theorem boundIsLeftOnlyByReset : Obligations.BoundIsLeftOnlyByReset :=
  fun _ _ _ hs hr h => (exec_cases h).pairing_eq_of_final hr (.inl hs)

/-- Settles O37: what R185's rows do not list is exactly what each operation ignores; PAIR_ACCEPT has no such case. -/
theorem unlistedPairingInputsAreIgnored : Obligations.UnlistedPairingInputsAreIgnored := by
  intro i s hu ha hl
  cases i with
  | pairStart present mac => exact exec_of_case (.pairStartIgnored hl ha)
  | pairTimeout => exact exec_of_case (.pairTimeoutIgnored hl)
  | pairBeacon src f => exact exec_of_case (.pairBeaconIgnored (fun hw => hl (.inl hw)) fun hb => hl (.inr hb))
  | pairCancel => exact exec_of_case (.pairCancelIgnored hl)
  | pairAccept src => exact absurd trivial hl
  | _ => cases hu

/-- Settles O39: the Receiver's acknowledgement is itself a BIND beacon, so the Transmitter binds as the Receiver did; the
Transmitter's own reaches a node that is Bound. The two roles differ in the acknowledgements' other bits alone. -/
theorem twoNodesBindToEachOther : Obligations.TwoNodesBindToEachOther := by
  intro tx rx addrTx addrRx _ _ htx hrx hAddrTx hAddrRx
  obtain ⟨rx', back, hrun, hpeer, hbound, hsend, hback⟩ :=
    exists_bind_and_acknowledgement (f := 0x81#8) hrx rfl hAddrTx
  obtain ⟨tx', ack, hrun', hpeer', hbound', hsend', -⟩ := exists_bind_and_acknowledgement htx hback hAddrRx
  exact ⟨rx', tx', _, back, ack, hrun, hpeer, hbound, hsend, hrun', hpeer', hbound', hsend',
    exec_pairBeacon_of_bound hbound, onlyReports_setOut rx' _, rfl⟩

/-- Settles O32: the two branches from Idle, Ignored elsewhere, and R88's two refusals. -/
theorem pairStartInstallsThePeer : Obligations.PairStartInstallsThePeer :=
  fun s _ => ⟨rfl, rfl, fun hs hm => exec_of_case (.pairStart hs hm), fun hs => exec_of_case (.pairStartAbsent hs),
    fun hs hm => exec_of_case (.pairStartIgnored hs (pairStart_present_wf_iff.mpr hm)),
    fun hs => exec_of_case (.pairStartIgnored hs (pairStart_absent_wf_iff.mpr rfl)),
    exec_pairStart_broadcast s, exec_pairStart_absent_of_ne_zeroMac⟩

/-- Settles O33: the timer's end in Waiting, and Ignored where Waiting or the armed timer is missing. -/
theorem pairTimeoutOpensBinding : Obligations.PairTimeoutOpensBinding :=
  ⟨rfl, fun _ => ⟨fun hs ht => exec_of_case (.pairTimeout hs ht),
    fun hs => exec_of_case (.pairTimeoutIgnored (not_and_or.mpr (hs.imp_right Bool.eq_false_iff.mp)))⟩⟩

/-- Settles O34: the three ways PAIR_BEACON ends; OWN is read off the role. -/
theorem pairBeaconBindsOrIsIgnored : Obligations.PairBeaconBindsOrIsIgnored := by
  intro s src f
  refine ⟨rfl, fun hs hb hm hf => exec_of_case (.fastPath hs hb hm hf), fun hs hf hm => ?_,
    fun hw hb => exec_of_case (.pairBeaconIgnored hw hb)⟩
  rw [exec_of_case (.bind hs hf hm)]
  cases s.cfg.role <;> rfl

/-- Settles O36: the result bit is the conjunction of the bound bit and the test of the address. -/
theorem pairAcceptTestsTheBoundAddress : Obligations.PairAcceptTestsTheBoundAddress :=
  fun _ _ => ⟨_, rfl, exec_of_case .pairAccept, by rw [Bool.and_eq_true, beq_iff_eq]⟩

end Sys2Proof.Machine
end

section
/-! Proofs of the family 44_link_health.md: what OBSERVE counts (R200), what HEALTH_READ answers (R203), that the counters never
decrease (R202), and that nothing else reads the link statistics (R204). -/

namespace Sys2Proof.Machine

/-! ### What OBSERVE and HEALTH_READ compute -/

/-- The distance from `b` to `a` on the circle of u16 values (decision D22), over the integers. -/
theorem circleDistance_toNat (a b : U16) : (a - b).toNat = (a.toNat + 65536 - b.toNat) % 65536 := by
  rw [BitVec.toNat_sub]; have := b.isLt; omega

/-- Saturation to 32 bits leaves a u32 as it is. -/
theorem sat32_toNat_self (v : U32) : sat32 v.toNat = v := by
  apply BitVec.eq_of_toNat_eq
  rw [sat32_toNat]; have := v.isLt; omega

section Observe

variable {seq : U16} {h : Health}

/-- The first observation seeds both sequence numbers. -/
theorem observeSeq_of_first (hf : h.firstSeq = none) :
    observeSeq seq h = { h with firstSeq := some seq, lastSeq := seq } := by
  simp only [observeSeq, hf]

/-- A repeated or older number adds one to `out_of_order` and changes nothing else. -/
theorem observeSeq_of_outOfOrder (hf : h.firstSeq ≠ none) (hd : outOfOrderDistance (seq - h.lastSeq) = true) :
    observeSeq seq h = { h with outOfOrder := sat32 (h.outOfOrder.toNat + 1) } := by
  obtain ⟨f, hf⟩ := Option.ne_none_iff_exists'.mp hf
  simp only [observeSeq, hf, hd, if_true]

/-- A newer number moves `last_seq` and adds the numbers skipped to `dropped`: none of them at distance 1. -/
theorem observeSeq_of_newer (hf : h.firstSeq ≠ none) (hd : ¬ outOfOrderDistance (seq - h.lastSeq) = true) :
    observeSeq seq h =
      { h with dropped := sat32 (h.dropped.toNat + ((seq - h.lastSeq).toNat - 1)), lastSeq := seq } := by
  obtain ⟨f, hf⟩ := Option.ne_none_iff_exists'.mp hf
  simp only [observeSeq, hf, if_neg hd]
  split
  · rfl
  · next hgap =>
    have hskip : (seq - h.lastSeq).toNat - 1 = 0 := by omega
    rw [hskip, Nat.add_zero, sat32_toNat_self]

/-- No observation takes anything off a counter (R202). -/
theorem counters_le_observeSeq (seq : U16) (h : Health) :
    h.dropped.toNat ≤ (observeSeq seq h).dropped.toNat ∧ h.outOfOrder.toNat ≤ (observeSeq seq h).outOfOrder.toNat := by
  by_cases hf : h.firstSeq = none
  · rw [observeSeq_of_first hf]; exact ⟨le_rfl, le_rfl⟩
  by_cases hd : outOfOrderDistance (seq - h.lastSeq) = true
  · rw [observeSeq_of_outOfOrder hf hd]; exact ⟨le_rfl, le_sat32_add _ _⟩
  · rw [observeSeq_of_newer hf hd]; exact ⟨le_sat32_add _ _, le_rfl⟩

/-- HEALTH_READ counts no packet before the first observation (R203). -/
theorem packetCount_of_none (hf : h.firstSeq = none) : packetCount h = 0#16 := by
  simp only [packetCount, hf]

/-- After it HEALTH_READ counts by the distance from the first sequence number (R203). -/
theorem packetCount_of_some {f : U16} (hf : h.firstSeq = some f) : packetCount h = h.lastSeq - f := by
  simp only [packetCount, hf]

end Observe

/-! ### Who reads the link statistics -/

section Noninterference

variable {s t u : State} {i : Instr} {n w : Nat}

/-- An edge ends in the same way under other link statistics, and carries them along. -/
theorem EdgeCase.with_health (hc : EdgeCase s n w u) (h : Health) :
    EdgeCase { s with health := h } n w { u with health := h } := by
  cases hc with
  | sync hw => exact .sync hw
  | waiting hw hs => exact .waiting hw hs
  | gapShort hw hs hg => exact .gapShort hw hs hg
  | gap hw hs hg => exact .gap hw hs hg
  | pulseShort hw hs hp => exact .pulseShort hw hs hp
  | overflow hw hs hp hv => exact .overflow hw hs hp hv
  | store hw hs hp hv hi => exact .store hw hs hp hv hi
  | publish hw hs hp hv hi => exact .publish hw hs hp hv hi

/-- Every way to complete but HEALTH_READ's has conditions, a report and a next state that read no link statistics; OBSERVE and
RESET write them, the others carry them along (R204). -/
theorem ExecCase.exists_with_health (hc : ExecCase s i t) (hr : i ≠ .healthRead) (h : Health) :
    ∃ h', ExecCase { s with health := h } i { t with health := h' } := by
  cases hc with
  | healthRead => exact absurd rfl hr
  | reset => exact ⟨_, .reset⟩
  | observe => exact ⟨_, .observe⟩
  | edge hm he => exact ⟨h, .edge hm (he.with_health h)⟩
  | _ => exact ⟨h, by constructor <;> assumption⟩

end Noninterference

/-! ### The statements -/

/-- Settles O42: OBSERVE alone writes the counters, and it only adds to them. -/
theorem linkCountersNeverDecrease : Obligations.LinkCountersNeverDecrease := by
  intro i s t hr h
  have hc := exec_cases h
  obtain hsame | ⟨seq, rfl⟩ := hc.health_eq_or hr
  · rw [hsame]; exact ⟨le_rfl, le_rfl⟩
  · cases hc with
    | observe => exact counters_le_observeSeq seq s.health

/-- Settles O43: HEALTH_READ answers the triple of the statistics it finds; the other operations do not read them. -/
theorem healthHasNoEffectOnTraffic : Obligations.HealthHasNoEffectOnTraffic := by
  intro i s t h hrun
  by_cases hr : i = .healthRead
  · subst hr
    cases exec_cases hrun with
    | healthRead => exact ⟨h, exec_of_case .healthRead⟩
  · obtain ⟨h', hc⟩ := (exec_cases hrun).exists_with_health hr h
    exact ⟨h', by rw [if_neg hr]; exact exec_of_case hc⟩

/-- Settles O40: the seed, and the two sides of R200's test of the distance. -/
theorem observeCountsGapsAndReordering : Obligations.ObserveCountsGapsAndReordering := by
  rintro s seq d rfl
  rw [← circleDistance_toNat]
  have hrun : exec (.observe seq) s = .next { s with health := observeSeq seq s.health, out := ⟨.done, .none, []⟩ } :=
    exec_of_case .observe
  refine ⟨rfl, fun hf => ?_, fun hf hd => ?_, fun hf hlo hhi => ?_⟩
  · rw [hrun, observeSeq_of_first hf]
  · rw [hrun, observeSeq_of_outOfOrder hf (outOfOrderDistance_iff.mpr hd)]; rfl
  · have hnewer : ¬ outOfOrderDistance (seq - s.health.lastSeq) = true := by rw [outOfOrderDistance_iff]; omega
    rw [hrun, observeSeq_of_newer hf hnewer]; rfl

/-- Settles O41: the count is the u16 that the statement names by its value. -/
theorem healthReadReturnsTheTriple : Obligations.HealthReadReturnsTheTriple := by
  refine ⟨rfl, fun s n hn => ?_⟩
  have hcount : packetCount s.health = n := by
    split at hn
    · next hf => rw [packetCount_of_none hf, hn]
    · next f hf =>
      rw [packetCount_of_some hf]
      exact BitVec.eq_of_toNat_eq ((circleDistance_toNat _ f).trans hn.symm)
  rw [← hcount]
  exact exec_of_case .healthRead

end Sys2Proof.Machine
end

section
/-! Proofs of the family 45_host_environment.md: what the operations of one `on_receive` do, run in the order in which the host
issues them (R213). -/

namespace Sys2Proof.Machine

section ReceivePath

variable {c : Config} {s : State} {addr : Mac} {b : List Byte} {p : Packet} {cause : CorruptCause}

/-- A buffer that decodes to a packet is decoded, observed and routed. -/
theorem receivePath_of_ok (h : decodeBytes c b = .ok p) :
    receivePath c addr b = [.decode b, .observe (packetSeq p), routeOf addr p] := by
  simp only [receivePath, h]

/-- A Corrupt buffer is decoded and nothing more (R157, R201). -/
theorem receivePath_of_corrupt (h : decodeBytes c b = .corrupt cause) : receivePath c addr b = [.decode b] := by
  simp only [receivePath, h]

/-- The route starts from the state that OBSERVE leaves: DECODE wrote its report alone, and OBSERVE's report takes its place. -/
theorem runInstrs_receivePath_of_ok (h : decodeBytes s.cfg b = .ok p) :
    runInstrs (receivePath s.cfg addr b) s =
      exec (routeOf addr p) { s with health := observeSeq (packetSeq p) s.health, out := Report.fresh } := by
  rw [receivePath_of_ok h, runInstrs_cons (exec_of_case .decode), runInstrs_cons (exec_of_case .observe),
    runInstrs_singleton]

/-- A Corrupt buffer leaves DECODE's report and changes nothing else. -/
theorem runInstrs_receivePath_of_corrupt (h : decodeBytes s.cfg b = .corrupt cause) :
    runInstrs (receivePath s.cfg addr b) s = .next { s with out := decodeReport (.corrupt cause) } := by
  rw [receivePath_of_corrupt h, runInstrs_singleton, exec_of_case .decode, h]

end ReceivePath

/-! ### The statement -/

/-- Settles O60: the two runs of the receive path; the statement's route and `seq` are those of each packet type. -/
theorem receivePathObservesThenRoutes : Obligations.ReceivePathObservesThenRoutes := by
  intro s addr b
  refine ⟨fun p hp => ⟨Report.fresh, ?_⟩, fun cause hc => runInstrs_receivePath_of_corrupt hc⟩
  rw [runInstrs_receivePath_of_ok hp]
  cases p with
  | beacon | control | telemetry => rfl

end Sys2Proof.Machine
end

section
/-! Proofs of the family 60_exceptions.md: the invariants in every reachable state (R41, R245), and which operations end in which
named outcome (R235, R248, R17). -/

namespace Sys2Proof.Machine

/-! ### Reachable states -/

/-- Settles O47: RESET's state meets both invariants (O44), issuing an input writes no element they speak of, and every step keeps
them (O45, O46). -/
theorem everyReachableStateMeetsTheInvariants : Obligations.EveryReachableStateMeetsTheInvariants := by
  intro s h
  induction h with
  | boot c hc => exact ⟨inv_resetWith hc, pairInv_resetWith c⟩
  | issue s xs _ ih =>
    obtain ⟨hinv, hpair⟩ := ih
    exact ⟨{ hinv with }, { hpair with }⟩
  | step s t _ hs ih =>
    obtain ⟨hinv, hpair⟩ := ih
    exact ⟨everyStepKeepsTheInvariants s t hinv hs, everyStepKeepsThePairingInvariant s t hpair hs⟩

/-! ### Where each named outcome comes from -/

/-- What a named outcome tells of the operation `i` that ended in it, of the state `s` it ran in and of its next state `t`
(R235, R248). -/
def OutcomeOrigin (s : State) (i : Instr) (t : State) : OpOutcome → Prop
  | .done => True
  | .frameAbort .rollover => s.ppm.state ≠ .waiting ∧ t.ppm.state = .waiting ∧ (i = .rollover ∨ i = .tick)
  | .frameAbort _ | .syncDiscard => s.ppm.state ≠ .waiting ∧ ∃ v, i = .edge v
  | .corrupt _ => unitOf i = .frameCodec ∧ OnlyReports s t
  | .ignored => unitOf i = .pairing ∧ OnlyReports s t ∧ t.out.actions = [.log]
  | .empty => i = .take ∧ s.slot.full = false ∧ OnlyReports s t

section Outcomes

variable {s t u : State} {i : Instr} {n w : Nat} {o : OpOutcome}

/-- An operation that names `o` only where a frame is in progress: its origin need hold only there, since elsewhere it is done. -/
theorem outcomeOrigin_of_inFrame (h : s.ppm.state ≠ .waiting → OutcomeOrigin s i t o) :
    OutcomeOrigin s i t (if s.ppm.state = .waiting then .done else o) := by
  split
  · trivial
  · next hs => exact h hs

/-- DECODE's report is done or Corrupt, and it is all that the framer writes (R156, R150). -/
theorem outcomeOrigin_decodeReport (r : DecodeResult) (hu : unitOf i = .frameCodec) :
    OutcomeOrigin s i { s with out := decodeReport r } (decodeReport r).outcome := by
  cases r with
  | ok => trivial
  | corrupt => exact ⟨hu, onlyReports_setOut s _⟩

/-- An edge ends in SyncDiscard or in a FrameAbort of its own only where it finds the decoder in Gap or Pulse (R122, R127). -/
theorem EdgeCase.outcomeOrigin (h : EdgeCase s n w u) (v : U32) : OutcomeOrigin s (.edge v) u u.out.outcome := by
  cases h with
  | sync => exact outcomeOrigin_of_inFrame fun hs => ⟨hs, v, rfl⟩
  | gapShort _ hs | pulseShort _ hs | overflow _ hs => exact ⟨by simp [hs], v, rfl⟩
  | waiting | gap | store | publish => trivial

/-- Every way to complete has the origin that its outcome names. -/
theorem ExecCase.outcomeOrigin (h : ExecCase s i t) : OutcomeOrigin s i t t.out.outcome := by
  cases h with
  | tickWrap => exact outcomeOrigin_of_inFrame fun hs => ⟨hs, rfl, .inr rfl⟩
  | rollover => exact outcomeOrigin_of_inFrame fun hs => ⟨hs, rfl, .inl rfl⟩
  | edge _ he => exact he.outcomeOrigin _
  | takeEmpty hf => exact ⟨rfl, hf, onlyReports_setOut s _⟩
  | decode | beacon | control | telemetry => exact outcomeOrigin_decodeReport _ rfl
  | pairStartIgnored | pairTimeoutIgnored | pairBeaconIgnored | pairCancelIgnored =>
    exact ⟨rfl, onlyReports_setOut s _, rfl⟩
  | _ => trivial

/-- No edge emits an action. -/
theorem EdgeCase.actions_eq_nil (h : EdgeCase s n w u) : u.out.actions = [] := by
  cases h <;> rfl

/-- Only the pairing unit emits actions (R17). -/
theorem ExecCase.pairing_of_actions (h : ExecCase s i t) (ha : t.out.actions ≠ []) : unitOf i = .pairing := by
  cases h with
  | pairStart | pairStartAbsent | pairStartIgnored | pairTimeout | pairTimeoutIgnored => rfl
  | bind | pairBeaconIgnored | pairCancelIgnored => rfl
  | edge _ he => exact absurd he.actions_eq_nil ha
  | _ => exact absurd rfl ha

end Outcomes

/-- Settles O50: each clause is the origin of its outcome, and the last is the origin of an action. -/
theorem outcomesComeFromTheirOperations : Obligations.OutcomesComeFromTheirOperations := by
  intro i s t h
  have horigin {o : OpOutcome} (ho : t.out.outcome = o) : OutcomeOrigin s i t o := ho ▸ (exec_cases h).outcomeOrigin
  refine ⟨horigin, fun cause ho hne => ?_, horigin, fun _ => horigin, horigin, horigin, (exec_cases h).pairing_of_actions⟩
  cases cause with
  | rollover => exact absurd rfl hne
  | gapTooShort | pulseTooShort | valueOverflow => exact horigin ho

end Sys2Proof.Machine
end

section
/-! Proofs of the family 70_reset_and_hazards.md: what RESET does, in every state (R265). -/

namespace Sys2Proof.Machine

/-- Settles O2: RESET ends in one way, the reset state of the same configuration with the inputs still waiting, and the report of
that state is done, with no result and no action. -/
theorem resetOperationRestoresEveryElement : Obligations.ResetOperationRestoresEveryElement :=
  ⟨rfl, fun _ => ⟨_, exec_of_case .reset, rfl⟩⟩

end Sys2Proof.Machine
end
